-- ==== Sys2Proof/Word.lean ====
section
/-! DEFINITION. The word types of the core: 8-bit registers and memory cells, 16-bit registers and
instruction words (00_scope.md R7). -/

namespace Sys2Proof

/-- A general register, a timer or a memory cell (R7 `REG_W`, `TIMER_W`; R29). -/
abbrev Byte := BitVec 8

/-- An instruction word, `I`, `PC`, `SP` or a stack slot (R7 `INSTR_W`, `I_W`, `PC_W`, `SP_W`,
`STACK_ENTRY_W`). -/
abbrev Word := BitVec 16

/-- A register index (10_state.md R21): "no index is out of range". -/
abbrev RegIx := Fin 16

end Sys2Proof
end

