-- ==== Sys2Proof/Config.lean ====
section
/-! DEFINITION. What an implementation fixes (the OPEN parameters of 00_scope.md R7) and the free values:
the samples of the input ports the environment drives, and the decoder's don't-care tag. -/

namespace Sys2Proof

/-- `VF_DEST_ORDER` (00_scope.md R7, 41_alu.md R120): which write is the last one when an ALU instruction
writes both `V[x]` and VF. -/
inductive VfDestOrder where
  | flagLast
  | resultLast
  deriving DecidableEq, Repr

/-- `LOGIC_OP_VF` (00_scope.md R7, 41_alu.md R122): what OR, AND and XOR do to VF. -/
inductive LogicOpVf where
  | unchanged
  | zero
  deriving DecidableEq, Repr

/-- `FONT_WRITE_POLICY` (00_scope.md R7, 20_memory.md R55): what a write below address 80 does. -/
inductive FontWritePolicy where
  | fault
  | allow
  deriving DecidableEq, Repr

/-- The OPEN parameters of 00_scope.md R7, "a parameter the model takes as an argument". State carries one
such record and no step writes it, so a statement about every state holds for every value of every
parameter. DESIGN CHOICE (log 1), safe. The spec's defaults are in Machine/Defaults.lean. -/
structure Config where
  font            : Vector Byte 80
  vfDestOrder     : VfDestOrder
  logicOpVf       : LogicOpVf
  fontWritePolicy : FontWritePolicy
  deriving DecidableEq, Repr

/-- One sample of the input ports a cycle reads (40_cycle.md R90, R91). -/
structure Inputs where
  keyValid : Bool
  keyCode  : BitVec 4
  rnd      : Byte
  deriving DecidableEq, Repr

/-- Free value (log 3): is a key pressed in the `n`-th cycle whose sample nothing has settled
(93_implementation_defined.md U17). -/
opaque Config.freeKeyValid : Nat → Bool

/-- Free value (log 3): the key code of that cycle (93_implementation_defined.md U7, U17). -/
opaque Config.freeKeyCode : Nat → BitVec 4

/-- Free value (log 3): the random byte of that cycle, "an input with no law" (41_alu.md R135). -/
opaque Config.freeRnd : Nat → Byte

/-- Free value (log 7): `op_tag` for an illegal word, "don't-care when `valid = 0`" (30_encoding.md R74). -/
opaque Config.freeOpTag : Word → BitVec 6

/-- The sample of the `n`-th unsettled cycle, each port a free value (log 3). -/
def Config.freeInputs (n : Nat) : Inputs :=
  { keyValid := Config.freeKeyValid n, keyCode := Config.freeKeyCode n, rnd := Config.freeRnd n }

end Sys2Proof
end

