-- ==== Sys2Proof/Syntax.lean ====
section
/-! DEFINITION. The instructions: one constructor per row of spec/opcode_table.json, in the order of
30_encoding.md R76, with the operands assembled as R73 says. -/

namespace Sys2Proof

/-- The 34 instructions of 30_encoding.md R76. `x` and `y` are register indexes, `n` the 4-bit count, `kk`
the immediate byte, `nnn` the address already zero-extended to 16 bits (R73; `Instr.wf` bounds it).
`shr` and `shl` have no `y`: words that differ only there "are the same instruction" (R79). -/
inductive Instr where
  | cls                                  -- 00E0  CLS
  | ret                                  -- 00EE  RET
  | skp (x : RegIx)                      -- Ex9E  SKP Vx
  | sknp (x : RegIx)                     -- ExA1  SKNP Vx
  | ldVxDt (x : RegIx)                   -- Fx07  LD Vx, DT
  | ldVxK (x : RegIx)                    -- Fx0A  LD Vx, K
  | ldDtVx (x : RegIx)                   -- Fx15  LD DT, Vx
  | ldStVx (x : RegIx)                   -- Fx18  LD ST, Vx
  | addIVx (x : RegIx)                   -- Fx1E  ADD I, Vx
  | ldFVx (x : RegIx)                    -- Fx29  LD F, Vx
  | ldBVx (x : RegIx)                    -- Fx33  LD B, Vx
  | ldMemVx (x : RegIx)                  -- Fx55  LD [I], Vx
  | ldVxMem (x : RegIx)                  -- Fx65  LD Vx, [I]
  | seReg (x y : RegIx)                  -- 5xy0  SE Vx, Vy
  | ldReg (x y : RegIx)                  -- 8xy0  LD Vx, Vy
  | orReg (x y : RegIx)                  -- 8xy1  OR Vx, Vy
  | andReg (x y : RegIx)                 -- 8xy2  AND Vx, Vy
  | xorReg (x y : RegIx)                 -- 8xy3  XOR Vx, Vy
  | addReg (x y : RegIx)                 -- 8xy4  ADD Vx, Vy
  | sub (x y : RegIx)                    -- 8xy5  SUB Vx, Vy
  | shr (x : RegIx)                      -- 8xy6  SHR Vx
  | subn (x y : RegIx)                   -- 8xy7  SUBN Vx, Vy
  | shl (x : RegIx)                      -- 8xyE  SHL Vx
  | sneReg (x y : RegIx)                 -- 9xy0  SNE Vx, Vy
  | jp (nnn : Word)                      -- 1nnn  JP nnn
  | call (nnn : Word)                    -- 2nnn  CALL nnn
  | seImm (x : RegIx) (kk : Byte)        -- 3xkk  SE Vx, kk
  | sneImm (x : RegIx) (kk : Byte)       -- 4xkk  SNE Vx, kk
  | ldImm (x : RegIx) (kk : Byte)        -- 6xkk  LD Vx, kk
  | addImm (x : RegIx) (kk : Byte)       -- 7xkk  ADD Vx, kk
  | ldI (nnn : Word)                     -- Annn  LD I, nnn
  | jpV0 (nnn : Word)                    -- Bnnn  JP V0, nnn
  | rnd (x : RegIx) (kk : Byte)          -- Cxkk  RND Vx, kk
  | drw (x y : RegIx) (n : Fin 16)       -- Dxyn  DRW Vx, Vy, n
  deriving DecidableEq, Repr

end Sys2Proof
end

