-- ==== Sys2Proof/WellFormed.lean ====
section
/-! DEFINITION. Which terms of `Instr` are instructions of the core. Register indexes, counts and immediate
bytes are bounded by their types (30_encoding.md R71); an address operand is 0–4095 (R73). -/

namespace Sys2Proof

/-- An address operand holds a 12-bit address: `nnn` is `zext_16(w[11:0])`, "0–4095" (30_encoding.md R73). -/
def addressWf (nnn : Word) : Bool := decide (nnn.toNat < 4096)

/-- The terms that stand for an instruction word (30_encoding.md R73, R76). -/
def Instr.wf : Instr → Bool
  | .cls | .ret => true
  | .skp _ | .sknp _ => true
  | .ldVxDt _ | .ldVxK _ | .ldDtVx _ | .ldStVx _ => true
  | .addIVx _ | .ldFVx _ | .ldBVx _ | .ldMemVx _ | .ldVxMem _ => true
  | .seReg _ _ | .sneReg _ _ => true
  | .ldReg _ _ | .orReg _ _ | .andReg _ _ | .xorReg _ _ => true
  | .addReg _ _ | .sub _ _ | .shr _ | .subn _ _ | .shl _ => true
  | .jp nnn => addressWf nnn
  | .call nnn => addressWf nnn
  | .ldI nnn => addressWf nnn
  | .jpV0 nnn => addressWf nnn
  | .seImm _ _ | .sneImm _ _ | .ldImm _ _ | .addImm _ _ | .rnd _ _ => true
  | .drw _ _ _ => true

end Sys2Proof
end

