-- ==== Sys2Proof/Decode.lean ====
section
/-! DEFINITION. The decoder block (30_encoding.md R70–R79): the fields, the opcode map as a table of mask and
match in decode priority order, the decoder's output ports, the byte decoder, and the encoder written from
the same patterns. -/

namespace Sys2Proof

/-! The fields of R71, at fixed nibble positions, assembled as R73 says. -/

/-- `x = w[11:8]`, widened without change. -/
def fieldX (w : Word) : RegIx := ⟨(w.extractLsb' 8 4).toNat, (w.extractLsb' 8 4).isLt⟩

/-- `y = w[7:4]`, widened without change. -/
def fieldY (w : Word) : RegIx := ⟨(w.extractLsb' 4 4).toNat, (w.extractLsb' 4 4).isLt⟩

/-- `n = w[3:0]`, a count. -/
def fieldN (w : Word) : Fin 16 := ⟨(w.extractLsb' 0 4).toNat, (w.extractLsb' 0 4).isLt⟩

/-- `kk = w[7:0]`. -/
def fieldKK (w : Word) : Byte := w.extractLsb' 0 8

/-- `nnn = zext_16(w[11:0])`. -/
def fieldNNN (w : Word) : Word := (w.extractLsb' 0 12).setWidth 16

/-- One row of the opcode map (30_encoding.md R76): its number, which is `op_tag`, its mask and match, and
the instruction it reads from a word. -/
structure OpcodeRow where
  tag  : BitVec 6
  mask : Word
  bits : Word
  make : Word → Instr

/-- "the first row with `(word & mask) = match`" (30_encoding.md R75). -/
def OpcodeRow.hits (r : OpcodeRow) (w : Word) : Bool := w &&& r.mask == r.bits

/-- Rows 0 and 1, mask `FFFF` (30_encoding.md R76). -/
def rowsFFFF : List OpcodeRow :=
  [⟨0, 0xFFFF, 0x00E0, fun _ => .cls⟩,
   ⟨1, 0xFFFF, 0x00EE, fun _ => .ret⟩]

/-- Rows 2 to 12, mask `F0FF` (30_encoding.md R76). -/
def rowsF0FF : List OpcodeRow :=
  [⟨2, 0xF0FF, 0xE09E, fun w => .skp (fieldX w)⟩,
   ⟨3, 0xF0FF, 0xE0A1, fun w => .sknp (fieldX w)⟩,
   ⟨4, 0xF0FF, 0xF007, fun w => .ldVxDt (fieldX w)⟩,
   ⟨5, 0xF0FF, 0xF00A, fun w => .ldVxK (fieldX w)⟩,
   ⟨6, 0xF0FF, 0xF015, fun w => .ldDtVx (fieldX w)⟩,
   ⟨7, 0xF0FF, 0xF018, fun w => .ldStVx (fieldX w)⟩,
   ⟨8, 0xF0FF, 0xF01E, fun w => .addIVx (fieldX w)⟩,
   ⟨9, 0xF0FF, 0xF029, fun w => .ldFVx (fieldX w)⟩,
   ⟨10, 0xF0FF, 0xF033, fun w => .ldBVx (fieldX w)⟩,
   ⟨11, 0xF0FF, 0xF055, fun w => .ldMemVx (fieldX w)⟩,
   ⟨12, 0xF0FF, 0xF065, fun w => .ldVxMem (fieldX w)⟩]

/-- Rows 13 to 23, mask `F00F` (30_encoding.md R76). -/
def rowsF00F : List OpcodeRow :=
  [⟨13, 0xF00F, 0x5000, fun w => .seReg (fieldX w) (fieldY w)⟩,
   ⟨14, 0xF00F, 0x8000, fun w => .ldReg (fieldX w) (fieldY w)⟩,
   ⟨15, 0xF00F, 0x8001, fun w => .orReg (fieldX w) (fieldY w)⟩,
   ⟨16, 0xF00F, 0x8002, fun w => .andReg (fieldX w) (fieldY w)⟩,
   ⟨17, 0xF00F, 0x8003, fun w => .xorReg (fieldX w) (fieldY w)⟩,
   ⟨18, 0xF00F, 0x8004, fun w => .addReg (fieldX w) (fieldY w)⟩,
   ⟨19, 0xF00F, 0x8005, fun w => .sub (fieldX w) (fieldY w)⟩,
   ⟨20, 0xF00F, 0x8006, fun w => .shr (fieldX w)⟩,
   ⟨21, 0xF00F, 0x8007, fun w => .subn (fieldX w) (fieldY w)⟩,
   ⟨22, 0xF00F, 0x800E, fun w => .shl (fieldX w)⟩,
   ⟨23, 0xF00F, 0x9000, fun w => .sneReg (fieldX w) (fieldY w)⟩]

/-- Rows 24 to 33, mask `F000` (30_encoding.md R76). -/
def rowsF000 : List OpcodeRow :=
  [⟨24, 0xF000, 0x1000, fun w => .jp (fieldNNN w)⟩,
   ⟨25, 0xF000, 0x2000, fun w => .call (fieldNNN w)⟩,
   ⟨26, 0xF000, 0x3000, fun w => .seImm (fieldX w) (fieldKK w)⟩,
   ⟨27, 0xF000, 0x4000, fun w => .sneImm (fieldX w) (fieldKK w)⟩,
   ⟨28, 0xF000, 0x6000, fun w => .ldImm (fieldX w) (fieldKK w)⟩,
   ⟨29, 0xF000, 0x7000, fun w => .addImm (fieldX w) (fieldKK w)⟩,
   ⟨30, 0xF000, 0xA000, fun w => .ldI (fieldNNN w)⟩,
   ⟨31, 0xF000, 0xB000, fun w => .jpV0 (fieldNNN w)⟩,
   ⟨32, 0xF000, 0xC000, fun w => .rnd (fieldX w) (fieldKK w)⟩,
   ⟨33, 0xF000, 0xD000, fun w => .drw (fieldX w) (fieldY w) (fieldN w)⟩]

/-- The opcode map in decode priority order, most specific masks first (30_encoding.md R75, R76). -/
def opcodeMap : List OpcodeRow := rowsFFFF ++ (rowsF0FF ++ (rowsF00F ++ rowsF000))

/-- The row a word selects: the first that matches (30_encoding.md R75); none for an illegal word (R77). -/
def matchingRow (w : Word) : Option OpcodeRow := opcodeMap.find? (·.hits w)

/-- The decoder: the instruction of a legal word, `none` for an illegal one (30_encoding.md R74, R77). -/
def decodeWord (w : Word) : Option Instr := (matchingRow w).map (·.make w)

/-- The decoder's output ports (30_encoding.md R74). -/
structure DecoderPorts where
  valid   : Bool
  opTag   : BitVec 6
  x       : BitVec 4
  y       : BitVec 4
  n       : BitVec 4
  kk      : BitVec 8
  nnn     : BitVec 12
  badWord : Word
  deriving DecidableEq, Repr

/-- What the combinational decoder drives for `word` (30_encoding.md R74): the fields always, `op_tag` a free
value when `valid = 0` (log 7). -/
def decoderPorts (w : Word) : DecoderPorts :=
  { valid   := (matchingRow w).isSome
    opTag   := ((matchingRow w).map (·.tag)).getD (Config.freeOpTag w)
    x       := w.extractLsb' 8 4
    y       := w.extractLsb' 4 4
    n       := w.extractLsb' 0 4
    kk      := w.extractLsb' 0 8
    nnn     := w.extractLsb' 0 12
    badWord := w }

/-- The word two bytes spell: the first, at the lower address, is bits 15:8 (20_memory.md R52, R53). -/
def wordOfBytes (hi lo : Byte) : Word := hi ++ lo

/-- The bytes of a word in the order memory holds them (20_memory.md R53). -/
def wordBytes (w : Word) : List Byte := [w.extractLsb' 8 8, w.extractLsb' 0 8]

/-- Why bytes are not an instruction: no row matches (30_encoding.md R77), or fewer than two bytes. -/
inductive DecodeError where
  | unrecognized (word : Word)
  | truncated
  deriving DecidableEq, Repr

/-- Reads one instruction from a list of bytes and gives the bytes after it; total, rejecting by name. -/
def decode : List Byte → Except DecodeError (Instr × List Byte)
  | hi :: lo :: rest =>
    match decodeWord (wordOfBytes hi lo) with
    | some i => .ok (i, rest)
    | none   => .error (.unrecognized (wordOfBytes hi lo))
  | _ => .error .truncated

/-! The encoder: each pattern of 30_encoding.md R76 written out, format by format (R72). -/

/-- A register index or a count as a nibble. -/
def nibble (x : Fin 16) : BitVec 4 := BitVec.ofNat 4 x.val

/-- Format `F_NNN`: `o nnn`. -/
def encodeNNN (o : BitVec 4) (nnn : Word) : Word := o ++ nnn.setWidth 12

/-- Formats `F_XKK` and `F_X`: `o x kk`. -/
def encodeXKK (o : BitVec 4) (x : RegIx) (kk : Byte) : Word := o ++ nibble x ++ kk

/-- Formats `F_XY` and `F_XYN`: `o x y n`. -/
def encodeXYN (o : BitVec 4) (x y n : Fin 16) : Word := o ++ nibble x ++ nibble y ++ nibble n

/-- The word of a well-formed instruction (30_encoding.md R76). The `y` nibble SHR and SHL do not use is
written 0; every value of it is the same instruction (R79). -/
def encode : Instr → Word
  | .cls         => 0x00E0
  | .ret         => 0x00EE
  | .skp x       => encodeXKK 0xE x 0x9E
  | .sknp x      => encodeXKK 0xE x 0xA1
  | .ldVxDt x    => encodeXKK 0xF x 0x07
  | .ldVxK x     => encodeXKK 0xF x 0x0A
  | .ldDtVx x    => encodeXKK 0xF x 0x15
  | .ldStVx x    => encodeXKK 0xF x 0x18
  | .addIVx x    => encodeXKK 0xF x 0x1E
  | .ldFVx x     => encodeXKK 0xF x 0x29
  | .ldBVx x     => encodeXKK 0xF x 0x33
  | .ldMemVx x   => encodeXKK 0xF x 0x55
  | .ldVxMem x   => encodeXKK 0xF x 0x65
  | .seReg x y   => encodeXYN 0x5 x y 0x0
  | .ldReg x y   => encodeXYN 0x8 x y 0x0
  | .orReg x y   => encodeXYN 0x8 x y 0x1
  | .andReg x y  => encodeXYN 0x8 x y 0x2
  | .xorReg x y  => encodeXYN 0x8 x y 0x3
  | .addReg x y  => encodeXYN 0x8 x y 0x4
  | .sub x y     => encodeXYN 0x8 x y 0x5
  | .shr x       => encodeXYN 0x8 x 0 0x6
  | .subn x y    => encodeXYN 0x8 x y 0x7
  | .shl x       => encodeXYN 0x8 x 0 0xE
  | .sneReg x y  => encodeXYN 0x9 x y 0x0
  | .jp nnn      => encodeNNN 0x1 nnn
  | .call nnn    => encodeNNN 0x2 nnn
  | .seImm x kk  => encodeXKK 0x3 x kk
  | .sneImm x kk => encodeXKK 0x4 x kk
  | .ldImm x kk  => encodeXKK 0x6 x kk
  | .addImm x kk => encodeXKK 0x7 x kk
  | .ldI nnn     => encodeNNN 0xA nnn
  | .jpV0 nnn    => encodeNNN 0xB nnn
  | .rnd x kk    => encodeXKK 0xC x kk
  | .drw x y n   => encodeXYN 0xD x y n

/-- The word a row's bits `w` give: every bit from `nbits` up is 0, and an instruction is one 16-bit word. -/
def tableWord (nbits w : Nat) : Word := BitVec.ofNat 16 (w % 2 ^ nbits)

/-- The instruction the decoder reads from the bytes of an opcode-table word, laid out as memory holds them. -/
def decodeTableWord (nbits w : Nat) : Option Instr :=
  match decode (wordBytes (tableWord nbits w)) with
  | .ok (i, _) => some i
  | .error _   => none

end Sys2Proof
end

