-- ==== Sys2Proof/Machine/Defaults.lean ====
section
/-! DEFINITION. The default values of the OPEN parameters (00_scope.md R7, 10_state.md R38). They stand in
`State.reset` only; no statement rests on one without naming it. -/

namespace Sys2Proof

/-- The default `FONT` table, glyphs 0 to 7 (10_state.md R38). PRESUMED (log 2): the conventional font, which
the spec itself marks as general knowledge. -/
def defaultFontLow : List Byte :=
  [0xF0, 0x90, 0x90, 0x90, 0xF0,
   0x20, 0x60, 0x20, 0x20, 0x70,
   0xF0, 0x10, 0xF0, 0x80, 0xF0,
   0xF0, 0x10, 0xF0, 0x10, 0xF0,
   0x90, 0x90, 0xF0, 0x10, 0x10,
   0xF0, 0x80, 0xF0, 0x10, 0xF0,
   0xF0, 0x80, 0xF0, 0x90, 0xF0,
   0xF0, 0x10, 0x20, 0x40, 0x40]

/-- The default `FONT` table, glyphs 8 to F (10_state.md R38). PRESUMED (log 2). -/
def defaultFontHigh : List Byte :=
  [0xF0, 0x90, 0xF0, 0x90, 0xF0,
   0xF0, 0x90, 0xF0, 0x10, 0xF0,
   0xF0, 0x90, 0xF0, 0x90, 0x90,
   0xE0, 0x90, 0xE0, 0x90, 0xE0,
   0xF0, 0x80, 0x80, 0x80, 0xF0,
   0xE0, 0x90, 0x90, 0x90, 0xE0,
   0xF0, 0x80, 0xF0, 0x80, 0xF0,
   0xF0, 0x80, 0xF0, 0x80, 0x80]

/-- The default `FONT`: 80 bytes, glyph `d` at bytes `5d` to `5d+4` (10_state.md R38). -/
def defaultFont : Vector Byte 80 :=
  ⟨(defaultFontLow ++ defaultFontHigh).toArray, by decide⟩

/-- The spec's default parameters: decisions D3, D4, D13, D31 of 92_eei_decisions.md. DESIGN CHOICE (log 1). -/
def Config.default : Config :=
  { font := defaultFont
    vfDestOrder := .flagLast
    logicOpVf := .unchanged
    fontWritePolicy := .fault }

end Sys2Proof
end

