-- ==== Sys2Proof/Machine/State.lean ====
section
/-! DEFINITION. The state of the core (10_state.md), plain data, and its value after reset (R37). -/

namespace Sys2Proof.Machine

/-- The reasons of an OutOfBounds error (60_exceptions.md R221, codes 2 to 9). -/
inductive OobReason where
  | fetch
  | memRead
  | memWrite
  | fontWrite
  | stackOverflow
  | stackUnderflow
  | pixel
  | keyIndex
  deriving DecidableEq, Repr

/-- The fault record `f` that `Halted(f)` holds (10_state.md R34): the two fatal error kinds of
60_exceptions.md R220, the value in the 18-bit layout of R221. -/
inductive FatalError where
  | unrecognizedInstruction (word : Word)
  | outOfBounds (reason : OobReason) (value : BitVec 18)
  deriving DecidableEq, Repr

/-- The run state (10_state.md R32). `awaitingKey` is `AwaitingKey(t)` with `t` the field `target` (R33). -/
inductive Mode where
  | fetching
  | awaitingKey
  | halted (f : FatalError)
  deriving DecidableEq, Repr

/-- The framebuffer: 32 rows of 64 one-bit cells (10_state.md R31). -/
abbrev Framebuffer := Vector (Vector Bool 64) 32

/-- Memory: the bytes that differ from what reset leaves, addresses strictly rising (20_memory.md R50). -/
abbrev Memory := List Host.Cell

/-- The state of the core. The last four fields are the model's own (INVENTORY.md, State): the input ports
as sampled, the samples the environment has settled, the count of free samples drawn, the parameters. -/
structure State where
  /-- `V[0]`–`V[15]` (R20); `V[15]` is VF (R22). -/
  v : Vector Byte 16
  /-- `I` (R23). -/
  i : Word
  /-- `PC` (R24). -/
  pc : Word
  /-- `SP` (R25). -/
  sp : Word
  /-- `STACK[0]`–`STACK[15]` (R26). -/
  stack : Vector Word 16
  /-- `DT` (R27). -/
  dt : Byte
  /-- `ST` (R28). -/
  st : Byte
  /-- Memory (R29). -/
  mem : Memory
  /-- `FB` (R31). -/
  fb : Framebuffer
  /-- `mode` (R32), with the fault record (R34). -/
  mode : Mode
  /-- The latch's target register (R33). -/
  target : RegIx
  /-- The output `fb_changed` (40_cycle.md R90, R97). -/
  fbChanged : Bool
  /-- The output `tone_stop` (40_cycle.md R90, R94). -/
  toneStop : Bool
  /-- Model's own: the input ports as sampled for this cycle (40_cycle.md R91). -/
  ports : Inputs
  /-- Model's own: samples the environment has settled for the coming cycles, oldest first (log 3). -/
  pending : List Inputs
  /-- Model's own: how many samples have been drawn from the free values (log 3). -/
  draws : Nat
  /-- Model's own: the OPEN parameters (00_scope.md R7, log 1). -/
  cfg : Config
  deriving DecidableEq, Repr

/-- Why a step stops outside the core's own `Halted` mode. A fatal error of the core is NOT here: its entry
is described by the spec and is a next state (60_exceptions.md R225, log 5). -/
inductive Fault where
  /-- Raised by RET when `SP > 16` names slot `k` of a 16-slot stack (00_scope.md R9: `STACK[k]` has
  0 ≤ k ≤ 15; 10_state.md R25: `SP` never leaves 0..16). Safe: no run reaches such a state (log 6). -/
  | stackSlotAbsent (k : Nat)
  deriving DecidableEq, Repr

/-- Why a step has no meaning in this model. -/
inductive Refusal where
  /-- Raised by `exec` for an instruction without a meaning yet; none is left. Safe. -/
  | notModelled (mnemonic : String)
  deriving DecidableEq, Repr

/-- The state reset leaves under the parameters `cfg`, before a program image is copied in (10_state.md R37,
70_reset_and_hazards.md R240). `mem` lists nothing: an unlisted byte reads as reset leaves it. `ports`,
`pending` and `draws` are DESIGN CHOICE (log 3, log 4). -/
def State.resetWith (cfg : Config) : State :=
  { v := Vector.replicate 16 0
    i := 0
    pc := 512
    sp := 0
    stack := Vector.replicate 16 0
    dt := 0
    st := 0
    mem := []
    fb := Vector.replicate 32 (Vector.replicate 64 false)
    mode := .fetching
    target := 0
    fbChanged := false
    toneStop := false
    ports := { keyValid := false, keyCode := 0, rnd := 0 }
    pending := []
    draws := 0
    cfg := cfg }

/-- The machine right after reset with the empty image and the default parameters (R37, R240). -/
def State.reset : State := State.resetWith Config.default

end Sys2Proof.Machine
end

