-- ==== Sys2Proof/Machine/Ops.lean ====
section
/-! DEFINITION. The named operations over the state: registers, memory, stack, framebuffer, input ports,
timers, taking a fatal error, and reset, the only way out of one. -/

namespace Sys2Proof.Machine

/-! ## Registers (10_state.md R20–R23) -/

/-- VF, which is `V[15]` (10_state.md R22). -/
def vf : RegIx := 15

/-- The read `V[x]` (00_scope.md R9). -/
def State.readV (s : State) (x : RegIx) : Byte := s.v[x.val]

/-- The write `V[x] <- b` (00_scope.md R9). -/
def State.writeV (s : State) (x : RegIx) (b : Byte) : State := { s with v := s.v.set x.val b }

/-- The write `I <- a`. -/
def State.writeI (s : State) (a : Word) : State := { s with i := a }

/-- The write `PC <- a` of a `sets_pc` instruction (40_cycle.md R96). -/
def State.writePc (s : State) (a : Word) : State := { s with pc := a }

/-- The write `DT <- b` (44_timers.md R172). -/
def State.writeDt (s : State) (b : Byte) : State := { s with dt := b }

/-- The write `ST <- b`; it raises no `tone_stop` (44_timers.md R173). -/
def State.writeSt (s : State) (b : Byte) : State := { s with st := b }

/-- The engine's normal `PC <- PC + 2`, "computed in 16 bits" (40_cycle.md R96). -/
def State.advance (s : State) : State := { s with pc := s.pc + 2 }

/-- The extra `PC <- PC + 2` of a skip whose condition holds (47_skip.md R200). -/
def State.skipWhen (s : State) (c : Bool) : State := { s with pc := if c then s.pc + 2 else s.pc }

/-! ## Memory (20_memory.md R50–R59) -/

/-- What an unlisted address reads as: the byte reset leaves there, `FONT` below 80 and 0 elsewhere
(20_memory.md R58, 10_state.md R37). -/
def resetByte (cfg : Config) (a : Nat) : Byte := if h : a < 80 then cfg.font[a] else 0

/-- The listed byte at `a`, if any. -/
def Memory.lookup : Memory → Nat → Option Byte
  | [], _ => none
  | (k, b) :: m, a => if k = a then some b else Memory.lookup m a

/-- Adds an entry at its place in the rising order. -/
def Memory.insert : Memory → Nat → Byte → Memory
  | [], a, b => [(a, b)]
  | (k, c) :: m, a, b => if a < k then (a, b) :: (k, c) :: m else (k, c) :: Memory.insert m a b

/-- Takes the entry at `a` out. -/
def Memory.erase (m : Memory) (a : Nat) : Memory := m.filter (fun p => p.1 != a)

/-- The canonical form: addresses strictly rising and inside the 4096 bytes, and no entry equal to what its
address reads as unlisted. -/
def Memory.wf (cfg : Config) (m : Memory) : Bool :=
  decide (m.Pairwise (fun p q => p.1 < q.1)) && m.all (fun p => p.1 < 4096 && p.2 != resetByte cfg p.1)

/-- Reads the byte at `a`, without the bounds check of R51. -/
def Memory.read (cfg : Config) (m : Memory) (a : Nat) : Byte := (m.lookup a).getD (resetByte cfg a)

/-- Stores the byte `b` at `a` and keeps the canonical form. -/
def Memory.write (cfg : Config) (m : Memory) (a : Nat) (b : Byte) : Memory :=
  if b = resetByte cfg a then m.erase a else (m.erase a).insert a b

/-- `mem[a]` (20_memory.md R51). -/
def State.peek (s : State) (a : Nat) : Byte := s.mem.read s.cfg a

/-- `mem[a] <- b` (20_memory.md R51). -/
def State.poke (s : State) (a : Nat) (b : Byte) : State := { s with mem := s.mem.write s.cfg a b }

/-- Stores bytes at consecutive addresses from `a`, the first at the lowest. -/
def State.pokeAll (s : State) (a : Nat) : List Byte → State
  | [] => s
  | b :: bs => (s.poke a b).pokeAll (a + 1) bs

/-- The fault of `MemRead(a, 1)`: `OutOfBounds(MEM_READ, a)` for `a ≥ 4096` (20_memory.md R51). -/
def readFault (a : Nat) : Option FatalError :=
  if 4096 ≤ a then some (.outOfBounds .memRead (BitVec.ofNat 18 a)) else none

/-- The fault of `MemWrite(a, 1, v)`: `MEM_WRITE` for `a ≥ 4096`; `FONT_WRITE` for `a < 80` when
`FONT_WRITE_POLICY = fault` (20_memory.md R51, R55). -/
def writeFault (cfg : Config) (a : Nat) : Option FatalError :=
  if 4096 ≤ a then some (.outOfBounds .memWrite (BitVec.ofNat 18 a))
  else if a < 80 ∧ cfg.fontWritePolicy = .fault then some (.outOfBounds .fontWrite (BitVec.ofNat 18 a))
  else none

/-- `Fetch16(a)`, big-endian; `OutOfBounds(FETCH, a)` when `a + 1 ≥ 4096` (20_memory.md R52). -/
def State.fetch16 (s : State) (a : Nat) : Except FatalError Word :=
  if 4096 ≤ a + 1 then .error (.outOfBounds .fetch (BitVec.ofNat 18 a))
  else .ok (wordOfBytes (s.peek a) (s.peek (a + 1)))

/-! ## Call stack (10_state.md R25, R26) -/

/-- `STACK[SP] <- a; SP <- SP + 1` (42_control.md R141); its caller has checked `SP < 16`. -/
def State.push (s : State) (a : Word) : State :=
  { s with stack := s.stack.setIfInBounds s.sp.toNat a, sp := s.sp + 1 }

/-- `SP <- SP - 1; PC <- a`, with `a` the slot the new `SP` names; the slot keeps its value
(42_control.md R142, 10_state.md R26). -/
def State.popTo (s : State) (a : Word) : State := { s with sp := s.sp - 1, pc := a }

/-! ## Framebuffer (10_state.md R31, 20_memory.md R66) -/

/-- The cell `FB[c][r]`. A cell outside the grid "does not exist" (20_memory.md R66): no draw reads one,
since its check comes first (45_display.md R184). -/
def Framebuffer.cell (fb : Framebuffer) (c r : Nat) : Bool :=
  if h : r < 32 ∧ c < 64 then (fb[r]'h.1)[c]'h.2 else false

/-- `FB[c][r] <- b`, for a cell of the grid. -/
def Framebuffer.setCell (fb : Framebuffer) (c r : Nat) (b : Bool) : Framebuffer :=
  if h : r < 32 ∧ c < 64 then fb.set r ((fb[r]'h.1).set c b h.2) h.1 else fb

/-- The framebuffer with every cell 0 (45_display.md R181). -/
def Framebuffer.blank : Framebuffer := Vector.replicate 32 (Vector.replicate 64 false)

/-- A write of the framebuffer by 00E0 or Dxyn: the new cells, and the write detector reports it
(40_cycle.md R97, 45_display.md R180). -/
def State.writeFb (s : State) (fb : Framebuffer) : State := { s with fb := fb, fbChanged := true }

/-! ## Input ports and the wait latch (40_cycle.md R90–R92, 10_state.md R33) -/

/-- The sample the coming cycle takes: the oldest one the environment has settled, else a free value
(40_cycle.md R91, log 3). -/
def State.nextInputs (s : State) : Inputs := s.pending.head?.getD (Config.freeInputs s.draws)

/-- The start of every cycle: the ports are sampled once, and `fb_changed` and `tone_stop` fall
(40_cycle.md R91, R99). -/
def State.beginCycle (s : State) : State :=
  { s with
    ports := s.nextInputs
    pending := s.pending.tail
    draws := if s.pending.isEmpty then s.draws + 1 else s.draws
    fbChanged := false
    toneStop := false }

/-- `key`: `Some(key_code)` when `key_valid = 1`, else `None` (40_cycle.md R90). -/
def State.key (s : State) : Option (BitVec 4) := if s.ports.keyValid then some s.ports.keyCode else none

/-- `mode <- AwaitingKey(x)`: `waiting = 1`, `target = x` (46_keys.md R193, 10_state.md R33). -/
def State.awaitKey (s : State) (x : RegIx) : State := { s with mode := .awaitingKey, target := x }

/-- `mode <- Fetching`, which clears the latch (40_cycle.md R92); nothing writes `target` then (log 8). -/
def State.resumeFetch (s : State) : State := { s with mode := .fetching }

/-- The body of a wait cycle (40_cycle.md R92): a pressed key's code, widened with zeros, goes to the target
register and the latch is cleared; without a key nothing happens. -/
def State.waitCycle (s : State) : State :=
  match s.key with
  | some c => (s.writeV s.target (c.setWidth 8)).resumeFetch
  | none   => s

/-! ## Timers (40_cycle.md R94, R103) -/

/-- One decrement of a timer, which stops at 0 (40_cycle.md R94). -/
def timerDown (t : Byte) : Byte := if t = 0 then 0 else t - 1

/-- The timer step: both timers count down; `tone_stop` rises when `ST` goes from 1 to 0
(40_cycle.md R94). -/
def State.timerStep (s : State) : State :=
  { s with dt := timerDown s.dt, st := timerDown s.st, toneStop := if s.st = 1 then true else s.toneStop }

/-! ## Fatal errors (60_exceptions.md R220–R226) -/

/-- Taking a fatal error `f`: `mode <- Halted(f)`, `fb_changed = 0`, and nothing else; `PC` keeps the address
of the failing word (60_exceptions.md R225). There is no return from it (R226); `State.rst` leaves it. -/
def State.raise (s : State) (f : FatalError) : State := { s with mode := .halted f, fbChanged := false }

/-- The apply phase of an instruction that checks first: on a fault it writes nothing and takes the fatal
error (40_cycle.md R95, R99), otherwise it leaves `t`. -/
def State.unlessFault (s : State) (f : Option FatalError) (t : State) : State :=
  match f with
  | some e => s.raise e
  | none   => t

/-! ## Reset (70_reset_and_hazards.md R240–R243) -/

/-- The construction error of R242: the image's length. -/
inductive LoadError where
  | tooLarge (L : Nat)
  deriving DecidableEq, Repr

/-- `Construct(image)` under the parameters `cfg`: the reset state with the image copied to 512 on;
`LoadError(L)` and no machine for `L > 3584` (70_reset_and_hazards.md R240–R242). -/
def construct (cfg : Config) (image : List Byte) : Except LoadError State :=
  if 3584 < image.length then .error (.tooLarge image.length)
  else .ok ((State.resetWith cfg).pokeAll 512 image)

/-- Asserting `rst` with an image, in any state, `Halted` included: construction, which keeps nothing of the
core's state (70_reset_and_hazards.md R240). The parameters and the environment's samples are not the core's
state and stay. -/
def State.rst (s : State) (image : List Byte) : Except LoadError State :=
  match construct s.cfg image with
  | .ok t    => .ok { t with pending := s.pending, draws := s.draws }
  | .error e => .error e

end Sys2Proof.Machine
end

