-- ==== Sys2Proof/Machine/Flags.lean ====
section
/-! DEFINITION. The flag computations of VF, the only flag (10_state.md R22): carry, the strict comparison of
SUB and SUBN, the bits shifted out, the collision, and the order of the flag and result writes. -/

namespace Sys2Proof.Machine

/-- A flag as VF holds it: 1 or 0. -/
def flagByte (b : Bool) : Byte := if b then 1 else 0

/-- The carry of an add: "1 iff `a+b > 255`" (41_alu.md R125). -/
def carryFlag (a b : Byte) : Byte := flagByte (decide (255 < a.toNat + b.toNat))

/-- The flag of SUB on (a, b) and of SUBN on (b, a): 1 exactly when `a > b`, strict (41_alu.md R126, R128;
90_conflicts.md C1). -/
def greaterFlag (a b : Byte) : Byte := flagByte (decide (b.toNat < a.toNat))

/-- The bit SHR shifts out: `a & 1` (41_alu.md R127). -/
def lowBitFlag (a : Byte) : Byte := a &&& 1

/-- The bit SHL shifts out: `(a >> 7) & 1` (41_alu.md R129). -/
def highBitFlag (a : Byte) : Byte := (a >>> 7) &&& 1

/-- Writes an ALU result to `V[x]` and a flag to VF in the order `VF_DEST_ORDER` sets (41_alu.md R120). The
order shows only for `x = 15`. -/
def State.writeResultAndFlag (s : State) (x : RegIx) (result flag : Byte) : State :=
  match s.cfg.vfDestOrder with
  | .flagLast   => (s.writeV x result).writeV vf flag
  | .resultLast => (s.writeV vf flag).writeV x result

/-- Writes the result of OR, AND or XOR to `V[x]`; with `LOGIC_OP_VF = zero` VF is then set to 0, "written
last" (41_alu.md R122). -/
def State.writeLogic (s : State) (x : RegIx) (result : Byte) : State :=
  match s.cfg.logicOpVf with
  | .unchanged => s.writeV x result
  | .zero      => (s.writeV x result).writeV vf 0

end Sys2Proof.Machine
end

