-- ==== Sys2Proof/Machine/Operands.lean ====
section
/-! DEFINITION. The operand forms: the addresses an instruction reaches through `I`, the registers Fx55 and
Fx65 name as a group, key indexes, and the checks made on them before any write (43_transfer.md R150). -/

namespace Sys2Proof.Machine

/-- The effective addresses `I + k` for `k` in `0..n`, ascending and exact: "they never wrap"
(20_memory.md R59, 43_transfer.md R150, R158). -/
def State.effectiveAddresses (s : State) (n : Nat) : List Nat := (List.range n).map (s.i.toNat + ·)

/-- The fault of the first of `as` that fails the check (43_transfer.md R150, 60_exceptions.md R224). -/
def firstFault {α : Type} (check : α → Option FatalError) (as : List α) : Option FatalError := as.findSome? check

/-- The check of an instruction that reads `n` bytes at `I` (43_transfer.md R150). -/
def State.loadFault (s : State) (n : Nat) : Option FatalError := firstFault readFault (s.effectiveAddresses n)

/-- The check of an instruction that writes `n` bytes at `I` (43_transfer.md R150). -/
def State.storeFault (s : State) (n : Nat) : Option FatalError :=
  firstFault (writeFault s.cfg) (s.effectiveAddresses n)

/-- The registers `V[0]` to `V[x]`, ascending (43_transfer.md R156, R157). -/
def regsUpTo (x : RegIx) : List RegIx := (List.finRange 16).filter (fun k => k.val ≤ x.val)

/-- The bytes of `V[0]` to `V[x]`, in the order Fx55 stores them (43_transfer.md R156). -/
def State.dumpBytes (s : State) (x : RegIx) : List Byte := (regsUpTo x).map s.readV

/-- `V[k] <- mem[I + k]` for `k` in `0..=x`, ascending (43_transfer.md R157). -/
def State.loadRegs (s : State) (x : RegIx) : State :=
  (regsUpTo x).foldl (fun t k => t.writeV k (t.peek (t.i.toNat + k.val))) s

/-- The hundreds, tens and ones digits of a byte (43_transfer.md R155). -/
def bcdDigits (a : Byte) : List Byte :=
  [BitVec.ofNat 8 (a.toNat / 100), BitVec.ofNat 8 (a.toNat / 10 % 10), BitVec.ofNat 8 (a.toNat % 10)]

/-- The check of a key index: `OutOfBounds(KEY_INDEX, k)` for `k > 15` (46_keys.md R190). -/
def keyFault (k : Byte) : Option FatalError :=
  if 15 < k.toNat then some (.outOfBounds .keyIndex (k.setWidth 18)) else none

/-- "Key `k` is pressed" means `key = Some(k)` (46_keys.md R190). -/
def State.keyPressed (s : State) (k : Byte) : Bool := s.key.any (fun c => c.toNat == k.toNat)

/-- The check of a call: `OutOfBounds(STACK_OVERFLOW, SP)` for `SP ≥ 16` (42_control.md R141). -/
def State.callFault (s : State) : Option FatalError :=
  if 16 ≤ s.sp.toNat then some (.outOfBounds .stackOverflow (s.sp.setWidth 18)) else none

/-- The return address a RET takes: the slot below `SP` (42_control.md R142). -/
def State.returnSlot (s : State) : Option Word := s.stack[s.sp.toNat - 1]?

end Sys2Proof.Machine
end

