-- ==== Sys2Proof/Machine/Alu.lean ====
section
/-! DEFINITION. The ALU family (41_alu.md): 8xy0–8xy7, 8xyE, 7xkk, Cxkk. Operands are read before any write
(R120), and every meaning ends with the engine's PC advance (40_cycle.md R96). -/

namespace Sys2Proof.Machine

/-- 8xy0 LD Vx, Vy: `V[x] <- V[y]` (41_alu.md R121). -/
def execLdReg (x y : RegIx) (s : State) : Host.Outcome State Fault Refusal :=
  .next (s.writeV x (s.readV y)).advance

/-- 8xy1 OR Vx, Vy (41_alu.md R122). -/
def execOrReg (x y : RegIx) (s : State) : Host.Outcome State Fault Refusal :=
  .next (s.writeLogic x (s.readV x ||| s.readV y)).advance

/-- 8xy2 AND Vx, Vy (41_alu.md R123). -/
def execAndReg (x y : RegIx) (s : State) : Host.Outcome State Fault Refusal :=
  .next (s.writeLogic x (s.readV x &&& s.readV y)).advance

/-- 8xy3 XOR Vx, Vy (41_alu.md R124). -/
def execXorReg (x y : RegIx) (s : State) : Host.Outcome State Fault Refusal :=
  .next (s.writeLogic x (s.readV x ^^^ s.readV y)).advance

/-- 8xy4 ADD Vx, Vy: the sum modulo 256, VF the carry (41_alu.md R125). -/
def execAddReg (x y : RegIx) (s : State) : Host.Outcome State Fault Refusal :=
  .next (s.writeResultAndFlag x (s.readV x + s.readV y) (carryFlag (s.readV x) (s.readV y))).advance

/-- 8xy5 SUB Vx, Vy: `V[x] - V[y]` modulo 256, VF 1 exactly when `V[x] > V[y]` (41_alu.md R126). -/
def execSub (x y : RegIx) (s : State) : Host.Outcome State Fault Refusal :=
  .next (s.writeResultAndFlag x (s.readV x - s.readV y) (greaterFlag (s.readV x) (s.readV y))).advance

/-- 8xy6 SHR Vx: shift right by one in place, VF the bit shifted out; `y` is ignored (41_alu.md R127). -/
def execShr (x : RegIx) (s : State) : Host.Outcome State Fault Refusal :=
  .next (s.writeResultAndFlag x (s.readV x >>> 1) (lowBitFlag (s.readV x))).advance

/-- 8xy7 SUBN Vx, Vy: `V[y] - V[x]` modulo 256, VF 1 exactly when `V[y] > V[x]` (41_alu.md R128). -/
def execSubn (x y : RegIx) (s : State) : Host.Outcome State Fault Refusal :=
  .next (s.writeResultAndFlag x (s.readV y - s.readV x) (greaterFlag (s.readV y) (s.readV x))).advance

/-- 8xyE SHL Vx: shift left by one in place, VF the bit shifted out; `y` is ignored (41_alu.md R129). -/
def execShl (x : RegIx) (s : State) : Host.Outcome State Fault Refusal :=
  .next (s.writeResultAndFlag x (s.readV x <<< 1) (highBitFlag (s.readV x))).advance

/-- 7xkk ADD Vx, kk: the sum modulo 256, no flag (41_alu.md R130). -/
def execAddImm (x : RegIx) (kk : Byte) (s : State) : Host.Outcome State Fault Refusal :=
  .next (s.writeV x (s.readV x + kk)).advance

/-- Cxkk RND Vx, kk: `V[x] <- rnd & kk`, `rnd` the cycle's sample (41_alu.md R135, R136). -/
def execRnd (x : RegIx) (kk : Byte) (s : State) : Host.Outcome State Fault Refusal :=
  .next (s.writeV x (s.ports.rnd &&& kk)).advance

end Sys2Proof.Machine
end

