-- ==== Sys2Proof/Machine/Control.lean ====
section
/-! DEFINITION. Control transfer (42_control.md): the four `sets_pc` instructions, after which the engine adds
nothing to PC (40_cycle.md R96). -/

namespace Sys2Proof.Machine

/-- 2nnn CALL nnn: the overflow check, then push `PC + 2`, then `PC <- nnn` (42_control.md R141). -/
def execCall (nnn : Word) (s : State) : Host.Outcome State Fault Refusal :=
  .next (s.unlessFault s.callFault ((s.push (s.pc + 2)).writePc nnn))

/-- 00EE RET: `OutOfBounds(STACK_UNDERFLOW, 0)` with an empty stack, else pop into PC (42_control.md R142).
A slot that does not exist, for `SP > 16`, stops the model (log 6). -/
def execRet (s : State) : Host.Outcome State Fault Refusal :=
  if s.sp = 0 then .next (s.raise (.outOfBounds .stackUnderflow 0))
  else
    match s.returnSlot with
    | some a => .next (s.popTo a)
    | none   => .fault (.stackSlotAbsent (s.sp.toNat - 1))

/-- 1nnn JP nnn: `PC <- nnn` (42_control.md R143). -/
def execJp (nnn : Word) (s : State) : Host.Outcome State Fault Refusal :=
  .next (s.writePc nnn)

/-- Bnnn JP V0, nnn: `PC <- nnn + V[0]`, exact for a 12-bit `nnn`, not masked (42_control.md R144). -/
def execJpV0 (nnn : Word) (s : State) : Host.Outcome State Fault Refusal :=
  .next (s.writePc (nnn + (s.readV 0).setWidth 16))

end Sys2Proof.Machine
end

