-- ==== Sys2Proof/Machine/Display.lean ====
section
/-! DEFINITION. Display (45_display.md): clear and sprite draw, with the sprite's cells, the checks on them and
the XOR loop. -/

namespace Sys2Proof.Machine

/-- The `n` sprite bytes at `I` (45_display.md R182). -/
def State.spriteRows (s : State) (n : Nat) : List Byte := (s.effectiveAddresses n).map s.peek

/-- The cells the set bits of one sprite byte name, columns ascending: bit 7 is column offset 0
(45_display.md R182, R183). The sums are exact. -/
def rowCells (cx r : Nat) (row : Byte) : List (Nat × Nat) :=
  ((List.range 8).filter (fun c => row.getLsbD (7 - c))).map (fun c => (cx + c, r))

/-- The cells the set bits of a sprite at `(cx, cy)` name, as (column, row), in row-major order
(45_display.md R182). -/
def spriteCells (cx cy : Nat) : List Byte → List (Nat × Nat)
  | [] => []
  | row :: rows => rowCells cx cy row ++ spriteCells cx (cy + 1) rows

/-- The value of a PIXEL error: `(cx + c)[8:0] ++ (cy + r)[8:0]` (45_display.md R184). -/
def pixelValue (c r : Nat) : BitVec 18 := BitVec.ofNat 9 c ++ BitVec.ofNat 9 r

/-- The check of one cell: `OutOfBounds(PIXEL, …)` outside the 64×32 grid (45_display.md R184). -/
def pixelFault (p : Nat × Nat) : Option FatalError :=
  if 64 ≤ p.1 ∨ 32 ≤ p.2 then some (.outOfBounds .pixel (pixelValue p.1 p.2)) else none

/-- XORs one cell with 1, and notes a collision when it was 1 (45_display.md R182). -/
def toggleCell (acc : Framebuffer × Bool) (p : Nat × Nat) : Framebuffer × Bool :=
  (acc.1.setCell p.1 p.2 (!acc.1.cell p.1 p.2), acc.2 || acc.1.cell p.1 p.2)

/-- The draw loop: the cells toggled in order, and whether any went from 1 to 0 (45_display.md R182). -/
def Framebuffer.draw (fb : Framebuffer) (ps : List (Nat × Nat)) : Framebuffer × Bool :=
  ps.foldl toggleCell (fb, false)

/-- The cells a draw of `n` rows at `(V[x], V[y])` toggles (45_display.md R182). -/
def State.drawCells (s : State) (x y : RegIx) (n : Nat) : List (Nat × Nat) :=
  spriteCells (s.readV x).toNat (s.readV y).toNat (s.spriteRows n)

/-- The checks of a draw: every sprite byte address, then every set pixel (45_display.md R182,
60_exceptions.md R224). -/
def State.drawFault (s : State) (x y : RegIx) (n : Nat) : Option FatalError :=
  (s.loadFault n).or (firstFault pixelFault (s.drawCells x y n))

/-- The writes of a draw: the cells, then VF with the collision, the last write (45_display.md R182, R185). -/
def State.drawn (s : State) (ps : List (Nat × Nat)) : State :=
  (s.writeFb (s.fb.draw ps).1).writeV vf (flagByte (s.fb.draw ps).2)

/-- 00E0 CLS: every cell 0 (45_display.md R181). -/
def execCls (s : State) : Host.Outcome State Fault Refusal :=
  .next (s.writeFb Framebuffer.blank).advance

/-- Dxyn DRW Vx, Vy, n (45_display.md R182). -/
def execDrw (x y : RegIx) (n : Fin 16) (s : State) : Host.Outcome State Fault Refusal :=
  .next (s.unlessFault (s.drawFault x y n.val) (s.drawn (s.drawCells x y n.val)).advance)

end Sys2Proof.Machine
end

