-- ==== Sys2Proof/Machine/Keys.lean ====
section
/-! DEFINITION. Key query and key wait (46_keys.md). -/

namespace Sys2Proof.Machine

/-- Ex9E SKP Vx: skip if key `V[x]` is pressed; `KEY_INDEX` above 15 (46_keys.md R191). -/
def execSkp (x : RegIx) (s : State) : Host.Outcome State Fault Refusal :=
  .next (s.unlessFault (keyFault (s.readV x)) (s.skipWhen (s.keyPressed (s.readV x))).advance)

/-- ExA1 SKNP Vx: skip if key `V[x]` is not pressed; `KEY_INDEX` above 15 (46_keys.md R192). -/
def execSknp (x : RegIx) (s : State) : Host.Outcome State Fault Refusal :=
  .next (s.unlessFault (keyFault (s.readV x)) (s.skipWhen (!s.keyPressed (s.readV x))).advance)

/-- Fx0A LD Vx, K: sets the Input-Wait Latch; this cycle consumes no key (46_keys.md R193). -/
def execLdVxK (x : RegIx) (s : State) : Host.Outcome State Fault Refusal :=
  .next (s.awaitKey x).advance

end Sys2Proof.Machine
end

