-- ==== Sys2Proof/Machine/Skip.lean ====
section
/-! DEFINITION. Immediate and register skips (47_skip.md): an extra 2 when the condition holds, then the
engine's normal 2 (R200). -/

namespace Sys2Proof.Machine

/-- 3xkk SE Vx, kk (47_skip.md R201). -/
def execSeImm (x : RegIx) (kk : Byte) (s : State) : Host.Outcome State Fault Refusal :=
  .next (s.skipWhen (decide (s.readV x = kk))).advance

/-- 4xkk SNE Vx, kk (47_skip.md R202). -/
def execSneImm (x : RegIx) (kk : Byte) (s : State) : Host.Outcome State Fault Refusal :=
  .next (s.skipWhen (decide (s.readV x ≠ kk))).advance

/-- 5xy0 SE Vx, Vy (47_skip.md R203). -/
def execSeReg (x y : RegIx) (s : State) : Host.Outcome State Fault Refusal :=
  .next (s.skipWhen (decide (s.readV x = s.readV y))).advance

/-- 9xy0 SNE Vx, Vy (47_skip.md R204). -/
def execSneReg (x y : RegIx) (s : State) : Host.Outcome State Fault Refusal :=
  .next (s.skipWhen (decide (s.readV x ≠ s.readV y))).advance

end Sys2Proof.Machine
end

