-- ==== Sys2Proof/Machine/Timers.lean ====
section
/-! DEFINITION. Timer access (44_timers.md). The timer step of the cycle has run before these (R170). -/

namespace Sys2Proof.Machine

/-- Fx07 LD Vx, DT: `DT` as this cycle's timer step left it (44_timers.md R171). -/
def execLdVxDt (x : RegIx) (s : State) : Host.Outcome State Fault Refusal :=
  .next (s.writeV x s.dt).advance

/-- Fx15 LD DT, Vx (44_timers.md R172). -/
def execLdDtVx (x : RegIx) (s : State) : Host.Outcome State Fault Refusal :=
  .next (s.writeDt (s.readV x)).advance

/-- Fx18 LD ST, Vx; it raises no `tone_stop` (44_timers.md R173). -/
def execLdStVx (x : RegIx) (s : State) : Host.Outcome State Fault Refusal :=
  .next (s.writeSt (s.readV x)).advance

end Sys2Proof.Machine
end

