-- ==== Sys2Proof/Machine/Transfer.lean ====
section
/-! DEFINITION. Register and memory transfer (43_transfer.md). The memory instructions check every address
before they read or write anything, and leave `I` unchanged (R150). -/

namespace Sys2Proof.Machine

/-- Stores bytes at `I` on, as Fx33 and Fx55 do: all checks first, and on a fault nothing is written
(43_transfer.md R150). -/
def State.storeAtI (s : State) (bs : List Byte) : State :=
  s.unlessFault (s.storeFault bs.length) (s.pokeAll s.i.toNat bs).advance

/-- Annn LD I, nnn (43_transfer.md R151). -/
def execLdI (nnn : Word) (s : State) : Host.Outcome State Fault Refusal :=
  .next (s.writeI nnn).advance

/-- 6xkk LD Vx, kk (43_transfer.md R152). -/
def execLdImm (x : RegIx) (kk : Byte) (s : State) : Host.Outcome State Fault Refusal :=
  .next (s.writeV x kk).advance

/-- Fx1E ADD I, Vx: modulo 2^16, no flag (43_transfer.md R153). -/
def execAddIVx (x : RegIx) (s : State) : Host.Outcome State Fault Refusal :=
  .next (s.writeI (s.i + (s.readV x).setWidth 16)).advance

/-- Fx29 LD F, Vx: `I <- 5 * V[x]`, exact, `V[x]` not masked (43_transfer.md R154). -/
def execLdFVx (x : RegIx) (s : State) : Host.Outcome State Fault Refusal :=
  .next (s.writeI (5 * (s.readV x).setWidth 16)).advance

/-- Fx33 LD B, Vx: the decimal digits to `I`, `I+1`, `I+2` (43_transfer.md R155). -/
def execLdBVx (x : RegIx) (s : State) : Host.Outcome State Fault Refusal :=
  .next (s.storeAtI (bcdDigits (s.readV x)))

/-- Fx55 LD [I], Vx: `V[0]` to `V[x]` to memory (43_transfer.md R156). -/
def execLdMemVx (x : RegIx) (s : State) : Host.Outcome State Fault Refusal :=
  .next (s.storeAtI (s.dumpBytes x))

/-- Fx65 LD Vx, [I]: memory to `V[0]` to `V[x]` (43_transfer.md R157). -/
def execLdVxMem (x : RegIx) (s : State) : Host.Outcome State Fault Refusal :=
  .next (s.unlessFault (s.loadFault (x.val + 1)) (s.loadRegs x).advance)

end Sys2Proof.Machine
end

