-- ==== Sys2Proof/Machine/Cycle.lean ====
section
/-! DEFINITION. The cycle (40_cycle.md R92–R99): the instruction cycle, and which of the three cycles the run
state selects. -/

namespace Sys2Proof.Machine

/-- The instruction cycle after the ports are sampled: fetch, decode, timer step, apply (40_cycle.md R93).
A fetch or decode error comes before the timer step, so it steps no timer (60_exceptions.md R225). -/
def instructionCycle (s : State) : Host.Outcome State Fault Refusal :=
  match s.fetch16 s.pc.toNat with
  | .error f => .next (s.raise f)
  | .ok w =>
    match decodeWord w with
    | none   => .next (s.raise (.unrecognizedInstruction w))
    | some i => exec i s.timerStep

/-- The whole cycle (40_cycle.md R99): a halted cycle does nothing more (R98), a wait cycle looks for a key
(R92), and an instruction cycle runs one instruction (R93). -/
def cycle (s : State) : Host.Outcome State Fault Refusal :=
  match s.mode with
  | .halted _    => .next s.beginCycle
  | .awaitingKey => .next s.beginCycle.waitCycle
  | .fetching    => instructionCycle s.beginCycle

/-- A place where a whole instruction can be fetched: `PC` itself, or the entry point when no word fits at
`PC` (20_memory.md R52, 70_reset_and_hazards.md R243). -/
def State.fetchPlace (s : State) : Word := if s.pc.toNat + 1 < 4096 then s.pc else 512

/-- The state with the word `w` stored where the next cycle fetches, high byte first, ready to fetch it. It
stands for a program load (70_reset_and_hazards.md R241), so it writes any address. -/
def State.withWordAtPc (s : State) (w : Word) : State :=
  { (s.pokeAll s.fetchPlace.toNat (wordBytes w)) with pc := s.fetchPlace, mode := .fetching }

end Sys2Proof.Machine
end

