-- ==== Sys2Proof/Machine/Step.lean ====
section
/-! DEFINITION. One step of the machine, which is one cycle, one assertion of `step` (00_scope.md R11). -/

namespace Sys2Proof.Machine

/-- One cycle (40_cycle.md R99). -/
def step (s : State) : Host.Outcome State Fault Refusal := cycle s

/-- `s` with the opcode-table word `w` where step fetches its next instruction (log 11): the word at `PC`, the
mode `Fetching`, and `PC` moved to the entry point only when no word fits at it. -/
def State.withFetchWord (s : State) (nbits w : Nat) : State := s.withWordAtPc (tableWord nbits w)

end Sys2Proof.Machine
end

