-- ==== Sys2Proof/Machine/Ports.lean ====
section
/-! DEFINITION. The output ports computed from the state (40_cycle.md R90). `fb_changed` and `tone_stop` are
fields of the state, because they hold between cycles (R91). -/

namespace Sys2Proof.Machine

/-- `waiting`: 1 exactly while `mode = AwaitingKey(t)` (10_state.md R33, 40_cycle.md R90). -/
def State.waiting (s : State) : Bool := decide (s.mode = .awaitingKey)

/-- `halted`: 1 while `mode = Halted(f)` (40_cycle.md R90). -/
def State.halted (s : State) : Bool :=
  match s.mode with
  | .fetching    => false
  | .awaitingKey => false
  | .halted _    => true

/-- The code of an OutOfBounds reason (60_exceptions.md R221). -/
def OobReason.code : OobReason → BitVec 4
  | .fetch          => 2
  | .memRead        => 3
  | .memWrite       => 4
  | .fontWrite      => 5
  | .stackOverflow  => 6
  | .stackUnderflow => 7
  | .pixel          => 8
  | .keyIndex       => 9

/-- The kind code of a fatal error (60_exceptions.md R221). -/
def FatalError.kind : FatalError → BitVec 4
  | .unrecognizedInstruction _ => 1
  | .outOfBounds r _           => r.code

/-- The value of a fatal error, 18 bits, zero-extended (60_exceptions.md R221). -/
def FatalError.value : FatalError → BitVec 18
  | .unrecognizedInstruction w => w.setWidth 18
  | .outOfBounds _ v           => v

/-- `fault_kind`, 0 when not halted (40_cycle.md R90, 60_exceptions.md R221). -/
def State.faultKind (s : State) : BitVec 4 :=
  match s.mode with
  | .fetching    => 0
  | .awaitingKey => 0
  | .halted f    => f.kind

/-- `fault_value`, 0 when not halted (40_cycle.md R90, 60_exceptions.md R221). -/
def State.faultValue (s : State) : BitVec 18 :=
  match s.mode with
  | .fetching    => 0
  | .awaitingKey => 0
  | .halted f    => f.value

/-- The framebuffer read port: `fb_rd_px = FB[fb_rd_col][fb_rd_row]`, with no side effect (40_cycle.md R90). -/
def State.fbRdPx (s : State) (col : BitVec 6) (row : BitVec 5) : Bool := s.fb.cell col.toNat row.toNat

end Sys2Proof.Machine
end

