-- ==== Sys2Proof/Safety.lean ====
section
/-! DEFINITION. The terms claims are stated in: the invariant of the core, what a cycle retires, and what an
instruction leaves unchanged. -/

namespace Sys2Proof.Machine

/-- "never mutated afterward" (10_state.md R30): every font byte reads as the parameter `FONT`. -/
def State.fontIntact (s : State) : Prop := ∀ a, a < 80 → s.peek a = resetByte s.cfg a

/-- What every state of a run satisfies: memory in canonical form; `SP` in 0..16 (10_state.md R25); `PC` at
most 0x10FE and every stack slot at most 4096 (40_cycle.md R101); and under `FONT_WRITE_POLICY = fault` the
font intact (10_state.md R30, 20_memory.md R55). -/
structure State.Inv (s : State) : Prop where
  memWf   : s.mem.wf s.cfg = true
  spLe    : s.sp.toNat ≤ 16
  pcLe    : s.pc.toNat ≤ 0x10FE
  slotsLe : ∀ k : Fin 16, (s.stack[k.val]).toNat ≤ 4096
  font    : s.cfg.fontWritePolicy = .fault → s.fontIntact

/-- Reading any byte of memory gives in `t` what it gives in `s`. -/
def SameMemory (s t : State) : Prop := ∀ a, t.peek a = s.peek a

/-- Every byte outside the `n` bytes from `a` reads in `t` as it reads in `s`. -/
def SameMemoryOutside (s t : State) (a n : Nat) : Prop := ∀ b, b < a ∨ a + n ≤ b → t.peek b = s.peek b

/-- The frame of an instruction that writes general registers only: no other field changes but `PC`, a
general register changes only if `changed` holds of it, and every byte of memory reads as before. -/
def RegisterFrame (s t : State) (changed : RegIx → Prop) : Prop :=
  t = { s with v := t.v, pc := t.pc } ∧ (∀ z, ¬ changed z → t.readV z = s.readV z) ∧ SameMemory s t

/-- The instruction the next cycle fetches and decodes, if the core is fetching and the word at `PC` is inside
memory and legal (40_cycle.md R93). -/
def State.fetched (s : State) : Option Instr :=
  match s.mode with
  | .fetching    => if 4096 ≤ s.pc.toNat + 1 then none
                    else decodeWord (wordOfBytes (s.peek s.pc.toNat) (s.peek (s.pc.toNat + 1)))
  | .awaitingKey => none
  | .halted _    => none

/-- Nothing of the core but `mode`, the two held outputs and the model's own input fields may differ. -/
def SameCore (s t : State) : Prop :=
  t.v = s.v ∧ t.i = s.i ∧ t.pc = s.pc ∧ t.sp = s.sp ∧ t.stack = s.stack ∧ t.dt = s.dt ∧ t.st = s.st ∧
  t.mem = s.mem ∧ t.fb = s.fb ∧ t.target = s.target ∧ t.cfg = s.cfg

/-- The result and the flag of an ALU instruction on `V[x]`: both as computed when `x ≠ 15`; for `x = 15` VF
ends holding the one `VF_DEST_ORDER` writes last (41_alu.md R120). -/
def ResultAndFlag (s t : State) (x : RegIx) (result flag : Byte) : Prop :=
  (x ≠ vf → t.readV x = result ∧ t.readV vf = flag) ∧
  (x = vf → s.cfg.vfDestOrder = .flagLast → t.readV vf = flag) ∧
  (x = vf → s.cfg.vfDestOrder = .resultLast → t.readV vf = result)

/-- The general registers an instruction may write: the register it names as its destination, the group Fx65
loads, and VF where the spec lists it (10_state.md R22, 41_alu.md R133). -/
def MayWriteV (cfg : Config) : Instr → RegIx → Prop
  | .cls, _ | .ret, _ | .skp _, _ | .sknp _, _ => False
  | .ldVxDt x, z => z = x
  | .ldVxK _, _ | .ldDtVx _, _ | .ldStVx _, _ | .addIVx _, _ | .ldFVx _, _ | .ldBVx _, _ | .ldMemVx _, _ => False
  | .ldVxMem x, z => z ≤ x
  | .seReg _ _, _ | .sneReg _ _, _ | .seImm _ _, _ | .sneImm _ _, _ => False
  | .ldReg x _, z => z = x
  | .orReg x _, z | .andReg x _, z | .xorReg x _, z => z = x ∨ (z = vf ∧ cfg.logicOpVf = .zero)
  | .addReg x _, z | .sub x _, z | .shr x, z | .subn x _, z | .shl x, z => z = x ∨ z = vf
  | .jp _, _ | .call _, _ | .ldI _, _ | .jpV0 _, _ => False
  | .ldImm x _, z | .addImm x _, z | .rnd x _, z => z = x
  | .drw _ _ _, z => z = vf

/-- The apply-phase faults of each instruction (60_exceptions.md R223). -/
def MayRaise : Instr → FatalError → Prop
  | .call _, .outOfBounds r _ => r = .stackOverflow
  | .ret, .outOfBounds r _ => r = .stackUnderflow
  | .ldBVx _, .outOfBounds r _ | .ldMemVx _, .outOfBounds r _ => r = .memWrite ∨ r = .fontWrite
  | .ldVxMem _, .outOfBounds r _ => r = .memRead
  | .drw _ _ _, .outOfBounds r _ => r = .memRead ∨ r = .pixel
  | .skp _, .outOfBounds r _ | .sknp _, .outOfBounds r _ => r = .keyIndex
  | _, _ => False

/-- The operands of an instruction are the fields of its word, zero-extended, neither scaled nor shifted
(30_encoding.md R71, R73). -/
def OperandsOfWord (w : Word) : Instr → Prop
  | .cls | .ret => True
  | .skp x | .sknp x | .ldVxDt x | .ldVxK x | .ldDtVx x | .ldStVx x | .addIVx x | .ldFVx x | .ldBVx x
  | .ldMemVx x | .ldVxMem x | .shr x | .shl x => x.val = w.toNat / 256 % 16
  | .seReg x y | .sneReg x y | .ldReg x y | .orReg x y | .andReg x y | .xorReg x y | .addReg x y | .sub x y
  | .subn x y => x.val = w.toNat / 256 % 16 ∧ y.val = w.toNat / 16 % 16
  | .jp nnn | .call nnn | .ldI nnn | .jpV0 nnn => nnn.toNat = w.toNat % 4096
  | .seImm x kk | .sneImm x kk | .ldImm x kk | .addImm x kk | .rnd x kk =>
      x.val = w.toNat / 256 % 16 ∧ kk.toNat = w.toNat % 256
  | .drw x y n => x.val = w.toNat / 256 % 16 ∧ y.val = w.toNat / 16 % 16 ∧ n.val = w.toNat % 16

/-- `MemWrite` at `a` raises nothing (20_memory.md R51, R55). -/
def WritableAt (cfg : Config) (a : Nat) : Prop := a < 4096 ∧ (cfg.fontWritePolicy = .fault → 80 ≤ a)

/-- Bit `7 - c` of the sprite byte at `I + j` is set: the sprite has a cell at row offset `j`, column offset
`c` (45_display.md R182, R183). -/
def State.spriteBit (s : State) (j c : Nat) : Prop := (s.peek (s.i.toNat + j)).getLsbD (7 - c) = true

/-- The cell `(col, row)` is one a draw of `n` rows at `(V[x], V[y])` toggles (45_display.md R182). -/
def State.covered (s : State) (x y : RegIx) (n col row : Nat) : Prop :=
  ∃ j c, j < n ∧ c < 8 ∧ s.spriteBit j c ∧ col = (s.readV x).toNat + c ∧ row = (s.readV y).toNat + j

/-- A draw's sprite bytes lie inside memory and its set bits inside the grid (45_display.md R182, R184). -/
def State.drawFits (s : State) (x y : RegIx) (n : Nat) : Prop :=
  (n = 0 ∨ s.i.toNat + n ≤ 4096) ∧
  ∀ j c, j < n → c < 8 → s.spriteBit j c → (s.readV x).toNat + c < 64 ∧ (s.readV y).toNat + j < 32

end Sys2Proof.Machine
end

