-- ==== Sys2Proof/Certificates/Slice0/Obligations.lean ====
section
/-! DEFINITION. The statements for the provers, from the numbered rules of spec/. Where a clause rests on a
decision D<n> of 92_eei_decisions.md or on a passage the spec marks as its own or as general knowledge, the
docstring says so. -/

open Sys2Proof Sys2Proof.Machine

/-! ## Encoding -/

/-- 30_encoding.md R71–R76: the decoder gives every well-formed instruction back from the bytes of its word,
with every operand, and leaves the bytes after it. The patterns are the spec's table, marked there as general
knowledge for the rows of column gk (log 9). -/
def Obligations.DecodeInvertsEncode : Prop :=
  ∀ (i : Instr) (rest : List Byte), i.wf = true → decode (wordBytes (encode i) ++ rest) = .ok (i, rest)

/-- 30_encoding.md R73, R76, R79: a legal word decodes to a well-formed instruction whose encoding is that
word; for SHR and SHL it is that word with the unused `y` nibble 0, not the word itself. That the encoder writes
0 there is the model's choice (log 15): the spec says only that words differing in that nibble are the same
instruction. The rows of column gk are general knowledge (log 9). -/
def Obligations.EncodeInvertsDecode : Prop :=
  ∀ (w : Word) (i : Instr), decodeWord w = some i →
    i.wf = true ∧
    ((∀ x, i ≠ .shr x ∧ i ≠ .shl x) → encode i = w) ∧
    ((∃ x, i = .shr x ∨ i = .shl x) → encode i = w &&& 0xFF0F)

/-- 30_encoding.md R75: "every priority order gives the same result", since no word matches two rows; the
rows are numbered 0 to 33 (R74). An inference of the spec's own ("derived"). -/
def Obligations.EveryPriorityOrderDecodesAlike : Prop :=
  (∀ (w : Word) (r₁ r₂ : OpcodeRow), r₁ ∈ opcodeMap → r₂ ∈ opcodeMap →
    r₁.hits w = true → r₂.hits w = true → r₁.tag = r₂.tag) ∧
  (∀ (w : Word) (rows : List OpcodeRow), rows.Perm opcodeMap →
    (rows.find? (fun r => r.hits w)).map (fun r => r.make w) = decodeWord w)

/-- 30_encoding.md R77: the illegal words are exactly the six classes (a) to (f). The classes follow from the
spec's decisions D9 and D10. -/
def Obligations.IllegalWordsAreTheSixClasses : Prop :=
  ∀ w : Word, decodeWord w = none ↔
    (w.toNat / 4096 = 0 ∧ w ≠ 0x00E0 ∧ w ≠ 0x00EE) ∨
    (w.toNat / 4096 = 5 ∧ w.toNat % 16 ≠ 0) ∨
    (w.toNat / 4096 = 8 ∧ w.toNat % 16 ∈ [8, 9, 0xA, 0xB, 0xC, 0xD, 0xF]) ∨
    (w.toNat / 4096 = 9 ∧ w.toNat % 16 ≠ 0) ∨
    (w.toNat / 4096 = 0xE ∧ w.toNat % 256 ∉ [0x9E, 0xA1]) ∨
    (w.toNat / 4096 = 0xF ∧ w.toNat % 256 ∉ [0x07, 0x0A, 0x15, 0x18, 0x1E, 0x29, 0x33, 0x55, 0x65])

/-- 30_encoding.md R74: the decoder's ports. The fields are always driven, `bad_word` is the word, `valid` is
1 exactly for a word that matches a row, and `op_tag` is then that row's number, 0 to 33. Nothing is said of
`op_tag` when `valid = 0` (log 7). The port list is the spec's own (decision D1). -/
def Obligations.DecoderDrivesItsPorts : Prop :=
  opcodeMap.map (fun r => r.tag.toNat) = List.range 34 ∧
  ∀ w : Word,
    (decoderPorts w).x.toNat = w.toNat / 256 % 16 ∧ (decoderPorts w).y.toNat = w.toNat / 16 % 16 ∧
    (decoderPorts w).n.toNat = w.toNat % 16 ∧ (decoderPorts w).kk.toNat = w.toNat % 256 ∧
    (decoderPorts w).nnn.toNat = w.toNat % 4096 ∧ (decoderPorts w).badWord = w ∧
    ((decoderPorts w).valid = true ↔ ∃ r ∈ opcodeMap, w &&& r.mask = r.bits) ∧
    (∀ r ∈ opcodeMap, w &&& r.mask = r.bits →
      (decoderPorts w).opTag = r.tag ∧ decodeWord w = some (r.make w))

/-- 30_encoding.md R71, R73: the operands of a decoded word are its fields at the places R71 gives, zero-extended,
none sign-extended, scaled or shifted. The place of `y`, bits 7:4, is marked general knowledge (log 9). -/
def Obligations.OperandsAreTheFieldsOfTheWord : Prop :=
  ∀ (w : Word) (i : Instr), decodeWord w = some i → OperandsOfWord w i

/-- 95_test_vectors.md §2.2: words of every format decode to the instructions the spec lists. -/
def Obligations.SampleWordsDecodeAsListed : Prop :=
  decodeWord 0x00E0 = some .cls ∧ decodeWord 0x00EE = some .ret ∧ decodeWord 0x1ABC = some (.jp 0xABC) ∧
  decodeWord 0x2ABC = some (.call 0xABC) ∧ decodeWord 0x6005 = some (.ldImm 0 5) ∧
  decodeWord 0x8014 = some (.addReg 0 1) ∧ decodeWord 0x81F6 = some (.shr 1) ∧
  decodeWord 0xD125 = some (.drw 1 2 5) ∧ decodeWord 0xE19E = some (.skp 1) ∧
  decodeWord 0xF165 = some (.ldVxMem 1) ∧ decodeWord 0x0000 = none ∧ decodeWord 0xFFFF = none

/-! ## The cycle -/

/-- 40_cycle.md R93–R95, R99: when the core fetches and the bytes at `PC` are a well-formed instruction, a
step is exec of it on the state in which the ports are sampled, `fb_changed` and `tone_stop` have fallen, and
the timer step has run. How the sample is taken (`nextInputs`, `pending`, `draws`) is log 3. -/
def Obligations.StepRunsTheDecodedInstruction : Prop :=
  ∀ (s : State) (i : Instr), s.mode = .fetching → s.pc.toNat + 1 < 4096 → i.wf = true →
    decode [s.peek s.pc.toNat, s.peek (s.pc.toNat + 1)] = .ok (i, []) →
    step s = exec i
      { s with
        ports := s.nextInputs
        pending := s.pending.tail
        draws := if s.pending.isEmpty then s.draws + 1 else s.draws
        fbChanged := false
        dt := if s.dt = 0 then 0 else s.dt - 1
        st := if s.st = 0 then 0 else s.st - 1
        toneStop := decide (s.st = 1) }

/-- 20_memory.md R52, 60_exceptions.md R225: a fetch that is not wholly inside memory halts the core with
FETCH and the PC, and changes nothing else, the timers included (decisions D12, D19). -/
def Obligations.FetchOutsideMemoryHalts : Prop :=
  ∀ s : State, s.mode = .fetching → 4095 ≤ s.pc.toNat →
    ∃ t, step s = .next t ∧ t.mode = .halted (.outOfBounds .fetch (s.pc.setWidth 18)) ∧
      SameCore s t ∧ t.fbChanged = false ∧ t.toneStop = false

/-- 30_encoding.md R77, 40_cycle.md R93, 60_exceptions.md R225: an illegal word halts the core with that word,
before the timer step, and changes nothing else (decision D19). -/
def Obligations.IllegalWordHaltsBeforeTheTimers : Prop :=
  ∀ (s : State) (w : Word), s.mode = .fetching → s.pc.toNat + 1 < 4096 →
    w = s.peek s.pc.toNat ++ s.peek (s.pc.toNat + 1) → decodeWord w = none →
    ∃ t, step s = .next t ∧ t.mode = .halted (.unrecognizedInstruction w) ∧
      SameCore s t ∧ t.fbChanged = false ∧ t.toneStop = false

/-- 40_cycle.md R92: a wait cycle writes the pressed key's code to the target register and clears the latch;
without a key nothing changes; neither fetches, advances `PC` or steps a timer. The widening of the code is the
spec's decision D27; that the target index stays is log 8. -/
def Obligations.WaitCycleLooksForAKey : Prop :=
  ∀ s : State, s.mode = .awaitingKey →
    (s.nextInputs.keyValid = false →
      ∃ t, step s = .next t ∧ t.mode = .awaitingKey ∧ SameCore s t ∧ t.fbChanged = false ∧ t.toneStop = false) ∧
    (s.nextInputs.keyValid = true →
      ∃ t, step s = .next t ∧ t.mode = .fetching ∧ (t.readV s.target).toNat = s.nextInputs.keyCode.toNat ∧
        (∀ z, z ≠ s.target → t.readV z = s.readV z) ∧ SameCore { s with v := t.v } t ∧
        t.fbChanged = false ∧ t.toneStop = false)

/-- 40_cycle.md R98, R104, 60_exceptions.md R226: a halted core stays halted with its fault record through any
number of cycles and changes nothing else (decision D20). -/
def Obligations.HaltedCoreStaysHalted : Prop :=
  ∀ (n : Nat) (s : State) (f : FatalError), s.mode = .halted f →
    ∃ t, Sys2Proof.core.run n s = .next t ∧ t.mode = .halted f ∧ SameCore s t ∧
      (0 < n → t.fbChanged = false ∧ t.toneStop = false)

/-- 40_cycle.md R102: the input-wait FSM, over every step: only Fx0A leads from `Fetching` to `AwaitingKey`,
only a key leads back, `Halted` is left by no step. -/
def Obligations.RunStateFollowsTheWaitFsm : Prop :=
  ∀ s t : State, step s = .next t →
    (∀ f, s.mode = .halted f → t.mode = .halted f) ∧
    (s.mode = .awaitingKey → s.nextInputs.keyValid = false → t.mode = .awaitingKey ∧ t.target = s.target) ∧
    (s.mode = .awaitingKey → s.nextInputs.keyValid = true → t.mode = .fetching) ∧
    (s.mode = .fetching → ∀ x, s.fetched = some (.ldVxK x) →
      t.mode = .awaitingKey ∧ t.target = x ∧ t.pc = s.pc + 2) ∧
    (s.mode = .fetching → (∀ x, s.fetched ≠ some (.ldVxK x)) →
      t.target = s.target ∧ (t.mode = .fetching ∨ ∃ f, t.mode = .halted f)) ∧
    (s.mode = .fetching → s.fetched = none → ∃ f, t.mode = .halted f)

/-- 40_cycle.md R94, R103, 44_timers.md R170–R174: a timer goes from `v` to `max(v - 1, 0)` in every cycle that
decodes, unless Fx15 or Fx18 then overwrites it with `V[x]`, and in no other cycle. -/
def Obligations.TimersStepOncePerDecodedCycle : Prop :=
  ∀ s t : State, step s = .next t →
    (s.fetched = none → t.dt = s.dt ∧ t.st = s.st) ∧
    (∀ i, s.fetched = some i → (∀ x, i ≠ .ldDtVx x) → t.dt.toNat = s.dt.toNat - 1) ∧
    (∀ x, s.fetched = some (.ldDtVx x) → t.dt = s.readV x) ∧
    (∀ i, s.fetched = some i → (∀ x, i ≠ .ldStVx x) → t.st.toNat = s.st.toNat - 1) ∧
    (∀ x, s.fetched = some (.ldStVx x) → t.st = s.readV x)

/-- 40_cycle.md R94: `tone_stop` is 1 after a cycle exactly when that cycle's timer step took `ST` from 1 to 0;
a write of `ST` raises it no other time (decision D18). -/
def Obligations.ToneStopExactlyAtOneToZero : Prop :=
  ∀ s t : State, step s = .next t → (t.toneStop = true ↔ (∃ i, s.fetched = some i) ∧ s.st = 1)

/-- 45_display.md R180: only clear and draw mutate the framebuffer, a cycle that applies either without a fatal
error reports `fb_changed = 1`, every other cycle reports 0, and the framebuffer is no part of memory. -/
def Obligations.OnlyClearAndDrawReportAChange : Prop :=
  ∀ s t : State, step s = .next t →
    (t.fbChanged = true ↔
      (s.fetched = some .cls ∨ ∃ x y n, s.fetched = some (.drw x y n)) ∧ t.halted = false) ∧
    (s.fetched ≠ some .cls → (∀ x y n, s.fetched ≠ some (.drw x y n)) → t.fb = s.fb) ∧
    (s.fetched = some .cls ∨ (∃ x y n, s.fetched = some (.drw x y n)) → SameMemory s t)

/-- 60_exceptions.md R223: which fatal errors the apply phase of each instruction can raise; the other 26
instructions raise none. An inference of the spec's own ("derived"). -/
def Obligations.InstructionsRaiseOnlyListedErrors : Prop :=
  ∀ (i : Instr) (s t : State) (f : FatalError), s.mode = .fetching → exec i s = .next t →
    t.mode = .halted f → MayRaise i f

/-- 60_exceptions.md R225, 40_cycle.md R95: an apply-phase fatal error keeps the state the timer step left and
no write of the apply phase (decision D19). -/
def Obligations.FatalErrorWritesNothingElse : Prop :=
  ∀ (i : Instr) (s t : State) (f : FatalError), s.mode = .fetching → exec i s = .next t →
    t.mode = .halted f → t = { s with mode := .halted f, fbChanged := false }

/-! ## Whole-machine frames and invariants -/

/-- 10_state.md R23–R28, R31, R33, 20_memory.md R56, R66: each register outside the file, the stack, the
timers, the latch target, memory and the framebuffer are written only by the instructions the rules list; no
instruction writes `tone_stop`, the parameters (log 1) or the model's own input fields (log 3). -/
def Obligations.StateIsWrittenOnlyByItsInstructions : Prop :=
  ∀ (i : Instr) (s t : State), exec i s = .next t →
    ((∀ n, i ≠ .ldI n) → (∀ x, i ≠ .addIVx x) → (∀ x, i ≠ .ldFVx x) → t.i = s.i) ∧
    (i ≠ .ret → (∀ n, i ≠ .call n) → t.sp = s.sp) ∧
    ((∀ n, i ≠ .call n) → t.stack = s.stack) ∧
    ((∀ x, i ≠ .ldDtVx x) → t.dt = s.dt) ∧
    ((∀ x, i ≠ .ldStVx x) → t.st = s.st) ∧
    ((∀ x, i ≠ .ldVxK x) → t.target = s.target) ∧
    ((∀ x, i ≠ .ldBVx x) → (∀ x, i ≠ .ldMemVx x) → SameMemory s t) ∧
    (i ≠ .cls → (∀ x y n, i ≠ .drw x y n) → t.fb = s.fb) ∧
    t.toneStop = s.toneStop ∧ t.ports = s.ports ∧ t.pending = s.pending ∧ t.draws = s.draws ∧ t.cfg = s.cfg

/-- 10_state.md R22, 41_alu.md R133: a general register changes only where an instruction names it as its
destination; VF also by ADD, SUB, SUBN, SHR, SHL and DRW, and by OR, AND, XOR when `LOGIC_OP_VF = zero`
(decision D4). -/
def Obligations.RegistersChangeOnlyAsDestinations : Prop :=
  ∀ (i : Instr) (s t : State) (z : RegIx), exec i s = .next t → ¬ MayWriteV s.cfg i z → t.readV z = s.readV z

/-- 10_state.md R30, 20_memory.md R55: no step changes a parameter (log 1), and under `FONT_WRITE_POLICY = fault` no
step changes a byte of the font region (decision D13). -/
def Obligations.FontAndParametersNeverChange : Prop :=
  ∀ s t : State, step s = .next t →
    t.cfg = s.cfg ∧ (s.cfg.fontWritePolicy = .fault → ∀ a, a < 80 → t.peek a = s.peek a)

/-- 10_state.md R37, 40_cycle.md R101: the invariant holds of the reset state, under every value of the
parameters (that memory is a canonical list is log 13). -/
def Obligations.InvariantHoldsAtReset : Prop :=
  State.reset.Inv ∧ ∀ cfg : Config, (State.resetWith cfg).Inv

/-- 70_reset_and_hazards.md R240–R242: the invariant holds of every constructed machine, whatever the image
(that memory is a canonical list is log 13). -/
def Obligations.InvariantHoldsAfterConstruction : Prop :=
  ∀ (cfg : Config) (image : List Byte) (t : State), construct cfg image = .ok t → t.Inv

/-- 10_state.md R25, R30, 40_cycle.md R101, 20_memory.md R55: every step keeps the invariant: canonical memory (log 13),
`SP` in 0..16, `PC` at most 0x10FE, stack slots at most 4096, the font intact under the default policy. -/
def Obligations.StepKeepsTheInvariant : Prop :=
  ∀ s t : State, s.Inv → step s = .next t → t.Inv

/-- 10_state.md R36, 70_reset_and_hazards.md R245: "a cycle call always runs to completion or fails fatally", for
any number of cycles (40_cycle.md R99, R104): from a state that meets the invariant the model neither faults nor
refuses. A fatal failure is a next state of the model (log 5), and its one stop, RET with `SP > 16` (log 6), is
ruled out by the invariant. -/
def Obligations.RunsOfAnyLengthComplete : Prop :=
  ∀ (n : Nat) (s : State), s.Inv → ∃ t, Sys2Proof.core.run n s = .next t ∧ State.Inv t

/-! ## Reset and memory -/

/-- 10_state.md R37, 70_reset_and_hazards.md R243: the state reset leaves, under every value of the parameters;
memory reads as `FONT` below 80 and 0 elsewhere. The latch target's 0 is the spec's decision D33. -/
def Obligations.ResetLeavesTheListedValues : Prop :=
  ∀ cfg : Config,
    (∀ x, (State.resetWith cfg).readV x = 0) ∧ (State.resetWith cfg).i = 0 ∧ (State.resetWith cfg).pc = 0x200 ∧
    (State.resetWith cfg).sp = 0 ∧ (∀ k : Fin 16, (State.resetWith cfg).stack[k.val] = 0) ∧
    (State.resetWith cfg).dt = 0 ∧ (State.resetWith cfg).st = 0 ∧
    (∀ a : Fin 80, (State.resetWith cfg).peek a.val = cfg.font[a.val]) ∧
    (∀ a, 80 ≤ a → (State.resetWith cfg).peek a = 0) ∧
    (∀ c r, (State.resetWith cfg).fb.cell c r = false) ∧
    (State.resetWith cfg).mode = .fetching ∧ (State.resetWith cfg).target = 0 ∧
    (State.resetWith cfg).fbChanged = false ∧ (State.resetWith cfg).toneStop = false ∧
    (State.resetWith cfg).waiting = false ∧ (State.resetWith cfg).halted = false ∧
    (State.resetWith cfg).faultKind = 0 ∧ (State.resetWith cfg).faultValue = 0 ∧ (State.resetWith cfg).cfg = cfg

/-- 70_reset_and_hazards.md R241: byte `k` of the image goes to address `512 + k`, its first byte is the high
byte of the first instruction, and the font is loaded at 0–79. -/
def Obligations.ImageIsCopiedToTheEntryPoint : Prop :=
  ∀ (cfg : Config) (image : List Byte), image.length ≤ 3584 →
    ∃ t, construct cfg image = .ok t ∧
      (∀ (k : Nat) (h : k < image.length), t.peek (512 + k) = image[k]) ∧
      (∀ a : Fin 80, t.peek a.val = cfg.font[a.val]) ∧
      (∀ a, 80 ≤ a → a < 512 ∨ 512 + image.length ≤ a → t.peek a = 0) ∧
      (∀ h : 1 < image.length, t.fetch16 512 = .ok (image[0] ++ image[1])) ∧
      t = { State.resetWith cfg with mem := t.mem }

/-- 70_reset_and_hazards.md R240, R242: `rst` in any state constructs the machine anew and keeps nothing of the
old core; an image above 3584 bytes is a load error and gives no machine. That reset keeps nothing is the spec's
decision D2; that the parameters and the environment's samples stay is log 10. -/
def Obligations.ResetKeepsNothingOfTheCore : Prop :=
  ∀ (s : State) (image : List Byte),
    (3584 < image.length → s.rst image = .error (.tooLarge image.length)) ∧
    (image.length ≤ 3584 → ∃ t u, construct s.cfg image = .ok u ∧ s.rst image = .ok t ∧
      t = { u with pending := s.pending, draws := s.draws } ∧ t.mode = .fetching ∧ t.pc = 0x200)

/-- 20_memory.md R57, R61: a byte reads as the latest write to it, a write changes only the byte it names, and
a write inside the 4096 bytes keeps the model's canonical form of memory (log 13). -/
def Obligations.MemoryReadsTheLatestWrite : Prop :=
  ∀ (s : State) (a : Nat) (b : Byte),
    (s.poke a b).peek a = b ∧ (∀ c, c ≠ a → (s.poke a b).peek c = s.peek c) ∧
    (a < 4096 → s.mem.wf s.cfg = true → (s.poke a b).mem.wf s.cfg = true)

/-- 20_memory.md R52, R53, R64: instruction fetch is big-endian and sees the bytes stored before it; a fetch
whose low byte is not inside memory faults (decisions D12, D28). -/
def Obligations.FetchIsBigEndianAndCoherent : Prop :=
  ∀ (s : State) (a : Nat) (hi lo : Byte),
    (a + 1 < 4096 → ∃ w, ((s.poke a hi).poke (a + 1) lo).fetch16 a = .ok w ∧
      w.toNat = 256 * hi.toNat + lo.toNat) ∧
    (4096 ≤ a + 1 → s.fetch16 a = .error (.outOfBounds .fetch (BitVec.ofNat 18 a)))

/-! ## ALU (41_alu.md) -/

/-- 43_transfer.md R152: 6xkk, mask F000, match 6000, loads `kk` into `V[x]`, writes no flag (VF changes only
when `x = 15`) and raises nothing. -/
def Obligations.LoadImmediateWritesItsRegister : Prop :=
  (∀ w : Word, w &&& 0xF000 = 0x6000 → decodeWord w = some (.ldImm (fieldX w) (fieldKK w))) ∧
  ∀ (x : RegIx) (kk : Byte) (s : State),
    ∃ t, exec (.ldImm x kk) s = .next t ∧ t.readV x = kk ∧ t.pc = s.pc + 2 ∧ RegisterFrame s t (· = x)

/-- 41_alu.md R121: 8xy0 copies `V[y]` into `V[x]`. The semantics are marked general knowledge (log 9). -/
def Obligations.RegisterCopyWritesItsRegister : Prop :=
  ∀ (x y : RegIx) (s : State),
    ∃ t, exec (.ldReg x y) s = .next t ∧ t.readV x = s.readV y ∧ t.pc = s.pc + 2 ∧ RegisterFrame s t (· = x)

/-- 41_alu.md R122–R124: OR, AND, XOR bit by bit; VF unchanged or 0 by the parameter `LOGIC_OP_VF`
(decision D4; semantics marked general knowledge, log 9). -/
def Obligations.LogicOperationsByTheParameter : Prop :=
  ∀ (x y : RegIx) (s : State),
    (∃ t, exec (.orReg x y) s = .next t ∧ t.pc = s.pc + 2 ∧
      RegisterFrame s t (fun z => z = x ∨ (z = vf ∧ s.cfg.logicOpVf = .zero)) ∧
      (s.cfg.logicOpVf = .zero → t.readV vf = 0) ∧
      ((x ≠ vf ∨ s.cfg.logicOpVf = .unchanged) → ∀ k, (t.readV x).getLsbD k =
        ((s.readV x).getLsbD k || (s.readV y).getLsbD k))) ∧
    (∃ t, exec (.andReg x y) s = .next t ∧ t.pc = s.pc + 2 ∧
      RegisterFrame s t (fun z => z = x ∨ (z = vf ∧ s.cfg.logicOpVf = .zero)) ∧
      (s.cfg.logicOpVf = .zero → t.readV vf = 0) ∧
      ((x ≠ vf ∨ s.cfg.logicOpVf = .unchanged) → ∀ k, (t.readV x).getLsbD k =
        ((s.readV x).getLsbD k && (s.readV y).getLsbD k))) ∧
    (∃ t, exec (.xorReg x y) s = .next t ∧ t.pc = s.pc + 2 ∧
      RegisterFrame s t (fun z => z = x ∨ (z = vf ∧ s.cfg.logicOpVf = .zero)) ∧
      (s.cfg.logicOpVf = .zero → t.readV vf = 0) ∧
      ((x ≠ vf ∨ s.cfg.logicOpVf = .unchanged) → ∀ k, (t.readV x).getLsbD k =
        ((s.readV x).getLsbD k ^^ (s.readV y).getLsbD k)))

/-- 41_alu.md R125: the sum modulo 256, VF 1 exactly when `a + b > 255`; for `x = 15` the parameter
`VF_DEST_ORDER` says which of the two VF holds (R120, decision D3). -/
def Obligations.AddSetsTheCarry : Prop :=
  ∀ (x y : RegIx) (s : State),
    ∃ t, exec (.addReg x y) s = .next t ∧ t.pc = s.pc + 2 ∧ RegisterFrame s t (fun z => z = x ∨ z = vf) ∧
      ResultAndFlag s t x (BitVec.ofNat 8 ((s.readV x).toNat + (s.readV y).toNat))
        (if 255 < (s.readV x).toNat + (s.readV y).toNat then 1 else 0)

/-- 41_alu.md R126, R128: SUB and SUBN, the difference modulo 256 and the strict flag; for `x = 15` the
parameter decides (R120, decision D3). -/
def Obligations.SubtractSetsTheStrictFlag : Prop :=
  ∀ (x y : RegIx) (s : State),
    (∃ t, exec (.sub x y) s = .next t ∧ t.pc = s.pc + 2 ∧ RegisterFrame s t (fun z => z = x ∨ z = vf) ∧
      ResultAndFlag s t x (BitVec.ofInt 8 ((s.readV x).toNat - (s.readV y).toNat))
        (if (s.readV y).toNat < (s.readV x).toNat then 1 else 0)) ∧
    (∃ t, exec (.subn x y) s = .next t ∧ t.pc = s.pc + 2 ∧ RegisterFrame s t (fun z => z = x ∨ z = vf) ∧
      ResultAndFlag s t x (BitVec.ofInt 8 ((s.readV y).toNat - (s.readV x).toNat))
        (if (s.readV x).toNat < (s.readV y).toNat then 1 else 0))

/-- 41_alu.md R127, R129: SHR and SHL shift `V[x]` in place by one, VF the bit shifted out; for `x = 15` the
parameter decides (R120, decision D3). -/
def Obligations.ShiftsSetTheBitShiftedOut : Prop :=
  ∀ (x : RegIx) (s : State),
    (∃ t, exec (.shr x) s = .next t ∧ t.pc = s.pc + 2 ∧ RegisterFrame s t (fun z => z = x ∨ z = vf) ∧
      ResultAndFlag s t x (BitVec.ofNat 8 ((s.readV x).toNat / 2)) (BitVec.ofNat 8 ((s.readV x).toNat % 2))) ∧
    (∃ t, exec (.shl x) s = .next t ∧ t.pc = s.pc + 2 ∧ RegisterFrame s t (fun z => z = x ∨ z = vf) ∧
      ResultAndFlag s t x (BitVec.ofNat 8 (2 * (s.readV x).toNat)) (BitVec.ofNat 8 ((s.readV x).toNat / 128)))

/-- 41_alu.md R130: 7xkk adds modulo 256 and writes no flag (decision D5). -/
def Obligations.AddImmediateWrapsWithoutFlag : Prop :=
  ∀ (x : RegIx) (kk : Byte) (s : State),
    ∃ t, exec (.addImm x kk) s = .next t ∧ (t.readV x).toNat = ((s.readV x).toNat + kk.toNat) % 256 ∧
      t.pc = s.pc + 2 ∧ RegisterFrame s t (· = x)

/-- 41_alu.md R135, R136: Cxkk writes the cycle's random byte masked by `kk`, for every random byte
(decision D17; the rule is marked general knowledge, log 9). -/
def Obligations.RandomByteIsMasked : Prop :=
  ∀ (x : RegIx) (kk : Byte) (s : State),
    ∃ t, exec (.rnd x kk) s = .next t ∧
      (∀ k, (t.readV x).getLsbD k = (s.ports.rnd.getLsbD k && kk.getLsbD k)) ∧
      t.pc = s.pc + 2 ∧ RegisterFrame s t (· = x)

/-! ## Control transfer (42_control.md) -/

/-- 42_control.md R143: 1nnn, mask F000, match 1000, sets `PC` to `nnn`, odd or not, changes nothing else,
memory included, and raises nothing; a target at which no word fits faults at the next fetch. -/
def Obligations.JumpSetsOnlyThePc : Prop :=
  (∀ w : Word, w &&& 0xF000 = 0x1000 → decodeWord w = some (.jp (fieldNNN w))) ∧
  ∀ (nnn : Word) (s : State),
    ∃ t, exec (.jp nnn) s = .next t ∧ t = { s with pc := nnn } ∧ SameMemory s t ∧
      (s.mode = .fetching → 4095 ≤ nnn.toNat →
        ∃ u, step t = .next u ∧ u.mode = .halted (.outOfBounds .fetch (nnn.setWidth 18)))

/-- 42_control.md R144: Bnnn sets `PC` to the exact sum `nnn + V[0]`, not masked (decision D24; that the added
register is V0 is marked general knowledge, log 9). -/
def Obligations.JumpPlusAddsVZeroExactly : Prop :=
  ∀ (nnn : Word) (s : State), (Instr.jpV0 nnn).wf = true →
    ∃ t, exec (.jpV0 nnn) s = .next t ∧ t.pc.toNat = nnn.toNat + (s.readV 0).toNat ∧
      t = { s with pc := t.pc } ∧ SameMemory s t

/-- 42_control.md R141, 60_exceptions.md R222: a call with a free slot pushes `PC + 2` and jumps; without one it
takes STACK_OVERFLOW with `SP` and writes nothing (decision D11). -/
def Obligations.CallPushesTheReturnAddress : Prop :=
  ∀ (nnn : Word) (s : State),
    (∀ k : Fin 16, s.sp.toNat = k.val →
      ∃ t, exec (.call nnn) s = .next t ∧ t.pc = nnn ∧ t.sp.toNat = k.val + 1 ∧
        t.stack[k.val] = s.pc + 2 ∧ (∀ j : Fin 16, j ≠ k → t.stack[j.val] = s.stack[j.val]) ∧
        t = { s with pc := t.pc, sp := t.sp, stack := t.stack } ∧ SameMemory s t) ∧
    (16 ≤ s.sp.toNat → exec (.call nnn) s =
      .next { s with mode := .halted (.outOfBounds .stackOverflow (s.sp.setWidth 18)), fbChanged := false })

/-- 42_control.md R142, 60_exceptions.md R222: a return with a pending call pops into `PC` and leaves the slot;
with none it takes STACK_UNDERFLOW and writes nothing (decision D11). With `SP > 16`, which no run reaches, the
slot does not exist and the model stops (log 6, the model's own). -/
def Obligations.ReturnPopsIntoThePc : Prop :=
  ∀ s : State,
    (∀ k : Fin 16, s.sp.toNat = k.val + 1 →
      ∃ t, exec .ret s = .next t ∧ t.pc = s.stack[k.val] ∧ t.sp.toNat = k.val ∧
        t = { s with pc := t.pc, sp := t.sp } ∧ SameMemory s t) ∧
    (s.sp = 0 → exec .ret s =
      .next { s with mode := .halted (.outOfBounds .stackUnderflow 0), fbChanged := false }) ∧
    (16 < s.sp.toNat → exec .ret s = .fault (.stackSlotAbsent (s.sp.toNat - 1)))

/-- 42_control.md R142: "A return restores exactly the pushed `PC + 2`": after a call, a return taken in any
state with that stack and `SP` resumes after the call. -/
def Obligations.ReturnResumesAfterTheCall : Prop :=
  ∀ (nnn : Word) (s t u : State), s.sp.toNat < 16 → exec (.call nnn) s = .next t →
    u.stack = t.stack → u.sp = t.sp →
    ∃ r, exec .ret u = .next r ∧ r.pc = s.pc + 2 ∧ r.sp = s.sp ∧ r.stack = t.stack

/-! ## Register and memory transfer (43_transfer.md) -/

/-- 43_transfer.md R151, R153, R154: Annn loads `I`, Fx1E adds `V[x]` modulo 2^16, Fx29 sets `5 * V[x]` with no
mask; none writes a general register or memory (decision D14; the forms Annn and Fx1E are marked general
knowledge, log 9). -/
def Obligations.AddressRegisterInstructions : Prop :=
  ∀ (nnn : Word) (x : RegIx) (s : State),
    (∃ t, exec (.ldI nnn) s = .next t ∧ t.i = nnn ∧ t = { s with i := t.i, pc := s.pc + 2 } ∧ SameMemory s t) ∧
    (∃ t, exec (.addIVx x) s = .next t ∧ t.i.toNat = (s.i.toNat + (s.readV x).toNat) % 65536 ∧
      t = { s with i := t.i, pc := s.pc + 2 } ∧ SameMemory s t) ∧
    (∃ t, exec (.ldFVx x) s = .next t ∧ t.i.toNat = 5 * (s.readV x).toNat ∧
      t = { s with i := t.i, pc := s.pc + 2 } ∧ SameMemory s t)

/-- 43_transfer.md R155, R150: Fx33 stores the hundreds, tens and ones digits at `I`, `I+1`, `I+2` and changes
no other byte; `I` is unchanged (decisions D13, D15). -/
def Obligations.BcdStoresThreeDigits : Prop :=
  ∀ (x : RegIx) (s : State), (∀ k, k < 3 → WritableAt s.cfg (s.i.toNat + k)) →
    ∃ t, exec (.ldBVx x) s = .next t ∧
      (t.peek s.i.toNat).toNat = (s.readV x).toNat / 100 ∧
      (t.peek (s.i.toNat + 1)).toNat = (s.readV x).toNat / 10 % 10 ∧
      (t.peek (s.i.toNat + 2)).toNat = (s.readV x).toNat % 10 ∧
      SameMemoryOutside s t s.i.toNat 3 ∧ t = { s with mem := t.mem, pc := s.pc + 2 }

/-- 43_transfer.md R156, R150: Fx55 stores `V[0]` to `V[x]` at `I` on, inclusive of `x`, and changes no other
byte; `I` is unchanged (decisions D13, D15). -/
def Obligations.RegisterDumpStoresItsGroup : Prop :=
  ∀ (x : RegIx) (s : State), (∀ k, k ≤ x.val → WritableAt s.cfg (s.i.toNat + k)) →
    ∃ t, exec (.ldMemVx x) s = .next t ∧
      (∀ k : RegIx, k ≤ x → t.peek (s.i.toNat + k.val) = s.readV k) ∧
      SameMemoryOutside s t s.i.toNat (x.val + 1) ∧ t = { s with mem := t.mem, pc := s.pc + 2 }

/-- 43_transfer.md R157, R150: Fx65 loads `V[0]` to `V[x]` from `I` on, inclusive of `x`; `I` and memory are
unchanged (decision D15). -/
def Obligations.RegisterLoadReadsItsGroup : Prop :=
  ∀ (x : RegIx) (s : State), s.i.toNat + x.val < 4096 →
    ∃ t, exec (.ldVxMem x) s = .next t ∧
      (∀ k : RegIx, k ≤ x → t.readV k = s.peek (s.i.toNat + k.val)) ∧ t.pc = s.pc + 2 ∧
      RegisterFrame s t (· ≤ x)

/-- 43_transfer.md R157, the source's round-trip law: a dump followed by a load from the same `I` for the same
`x`, whatever happened to the registers in between, restores the registers. -/
def Obligations.DumpThenLoadRestoresTheRegisters : Prop :=
  ∀ (x : RegIx) (s t u : State), (∀ k, k ≤ x.val → WritableAt s.cfg (s.i.toNat + k)) →
    exec (.ldMemVx x) s = .next t → u.mem = t.mem → u.i = s.i → u.cfg = s.cfg →
    ∃ r, exec (.ldVxMem x) u = .next r ∧ ∀ k : RegIx, k ≤ x → r.readV k = s.readV k

/-- 43_transfer.md R150, 20_memory.md R51, R55, 60_exceptions.md R224: Fx33, Fx55 and Fx65 take the error of the
first address that fails, in ascending order, and write nothing (decisions D12, D13, D19, D23). -/
def Obligations.TransferTakesTheFirstFailingAddress : Prop :=
  ∀ (x : RegIx) (s : State) (k : Nat),
    (k < 3 → (∀ j, j < k → WritableAt s.cfg (s.i.toNat + j)) →
      (4096 ≤ s.i.toNat + k → exec (.ldBVx x) s = .next { s with
        mode := .halted (.outOfBounds .memWrite (BitVec.ofNat 18 (s.i.toNat + k))), fbChanged := false }) ∧
      (s.i.toNat + k < 80 → s.cfg.fontWritePolicy = .fault → exec (.ldBVx x) s = .next { s with
        mode := .halted (.outOfBounds .fontWrite (BitVec.ofNat 18 (s.i.toNat + k))), fbChanged := false })) ∧
    (k ≤ x.val → (∀ j, j < k → WritableAt s.cfg (s.i.toNat + j)) →
      (4096 ≤ s.i.toNat + k → exec (.ldMemVx x) s = .next { s with
        mode := .halted (.outOfBounds .memWrite (BitVec.ofNat 18 (s.i.toNat + k))), fbChanged := false }) ∧
      (s.i.toNat + k < 80 → s.cfg.fontWritePolicy = .fault → exec (.ldMemVx x) s = .next { s with
        mode := .halted (.outOfBounds .fontWrite (BitVec.ofNat 18 (s.i.toNat + k))), fbChanged := false })) ∧
    (k ≤ x.val → (∀ j, j < k → s.i.toNat + j < 4096) → 4096 ≤ s.i.toNat + k →
      exec (.ldVxMem x) s = .next { s with
        mode := .halted (.outOfBounds .memRead (BitVec.ofNat 18 (s.i.toNat + k))), fbChanged := false })

/-! ## Timers, keys, skips -/

/-- 44_timers.md R171–R173: Fx07 reads `DT`, Fx15 writes it, Fx18 writes `ST` and leaves `tone_stop`
(decision D18; the forms are marked general knowledge, log 9). The state is the one the timer step left. -/
def Obligations.TimerAccessInstructions : Prop :=
  ∀ (x : RegIx) (s : State),
    (∃ t, exec (.ldVxDt x) s = .next t ∧ t.readV x = s.dt ∧ t.pc = s.pc + 2 ∧ RegisterFrame s t (· = x)) ∧
    (∃ t, exec (.ldDtVx x) s = .next t ∧ t = { s with dt := s.readV x, pc := s.pc + 2 } ∧ SameMemory s t) ∧
    (∃ t, exec (.ldStVx x) s = .next t ∧ t = { s with st := s.readV x, pc := s.pc + 2 } ∧ SameMemory s t)

/-- 46_keys.md R193: Fx0A sets the latch with target `x` and consumes no key: no register changes. -/
def Obligations.KeyWaitSetsTheLatch : Prop :=
  ∀ (x : RegIx) (s : State),
    ∃ t, exec (.ldVxK x) s = .next t ∧ t.waiting = true ∧ t.target = x ∧ t.pc = s.pc + 2 ∧
      t = { s with mode := t.mode, target := t.target, pc := t.pc } ∧ SameMemory s t

/-- 46_keys.md R190–R192: SKP skips exactly when key `V[x]` is the pressed one, SKNP exactly when it is not, for
every sample of the key port; an index above 15 is KEY_INDEX and changes nothing (decision D16; the forms are
marked general knowledge, log 9). -/
def Obligations.KeySkipsFollowTheSample : Prop :=
  ∀ (x : RegIx) (s : State),
    ((s.readV x).toNat ≤ 15 →
      exec (.skp x) s = .next { s with pc :=
        if s.ports.keyValid = true ∧ s.ports.keyCode.toNat = (s.readV x).toNat then s.pc + 4 else s.pc + 2 } ∧
      exec (.sknp x) s = .next { s with pc :=
        if s.ports.keyValid = true ∧ s.ports.keyCode.toNat = (s.readV x).toNat then s.pc + 2 else s.pc + 4 }) ∧
    (15 < (s.readV x).toNat →
      exec (.skp x) s = .next { s with
        mode := .halted (.outOfBounds .keyIndex ((s.readV x).setWidth 18)), fbChanged := false } ∧
      exec (.sknp x) s = .next { s with
        mode := .halted (.outOfBounds .keyIndex ((s.readV x).setWidth 18)), fbChanged := false })

/-- 47_skip.md R200–R204: the four compare skips: `PC` advances by 4 when the condition holds and by 2 when it
does not, and nothing else changes (which form is equal and which not is marked general knowledge, log 9). -/
def Obligations.CompareSkipsAdvanceByFourOrTwo : Prop :=
  ∀ (x y : RegIx) (kk : Byte) (s : State),
    exec (.seImm x kk) s = .next { s with pc := if s.readV x = kk then s.pc + 4 else s.pc + 2 } ∧
    exec (.sneImm x kk) s = .next { s with pc := if s.readV x = kk then s.pc + 2 else s.pc + 4 } ∧
    exec (.seReg x y) s = .next { s with pc := if s.readV x = s.readV y then s.pc + 4 else s.pc + 2 } ∧
    exec (.sneReg x y) s = .next { s with pc := if s.readV x = s.readV y then s.pc + 2 else s.pc + 4 }

/-! ## Display (45_display.md) and the output ports -/

/-- 45_display.md R181: 00E0 sets every cell to 0, reports a change even on a clear framebuffer, raises nothing,
and leaves VF and everything else. -/
def Obligations.ClearScreenClearsEveryCell : Prop :=
  (∀ w : Word, decodeWord w = some .cls ↔ w = 0x00E0) ∧
  ∀ s : State,
    ∃ t, exec .cls s = .next t ∧ (∀ c r, c < 64 → r < 32 → t.fb.cell c r = false) ∧ t.fbChanged = true ∧
      t.readV vf = s.readV vf ∧ t = { s with fb := t.fb, fbChanged := true, pc := s.pc + 2 } ∧ SameMemory s t

/-- 45_display.md R182, R183, R185, R186: a draw that fits inverts exactly the cells its set bits cover, sets VF
to 1 if one of them was 1 and to 0 otherwise, and reports a change; `n = 0` included (decisions D7, D8, D25,
D26). -/
def Obligations.DrawInvertsExactlyTheSprite : Prop :=
  ∀ (x y : RegIx) (n : Fin 16) (s : State), s.drawFits x y n.val →
    ∃ t, exec (.drw x y n) s = .next t ∧
      (∀ c r, c < 64 → r < 32 → s.covered x y n.val c r → t.fb.cell c r = !s.fb.cell c r) ∧
      (∀ c r, c < 64 → r < 32 → ¬ s.covered x y n.val c r → t.fb.cell c r = s.fb.cell c r) ∧
      ((∃ c r, s.covered x y n.val c r ∧ s.fb.cell c r = true) → t.readV vf = 1) ∧
      ((∀ c r, s.covered x y n.val c r → s.fb.cell c r = false) → t.readV vf = 0) ∧
      (∀ z, z ≠ vf → t.readV z = s.readV z) ∧
      t = { s with v := t.v, fb := t.fb, fbChanged := true, pc := s.pc + 2 } ∧ SameMemory s t

/-- 45_display.md R182, R184, 60_exceptions.md R224: a draw that does not fit takes MEM_READ for its first sprite
byte outside memory, else PIXEL for its first set bit outside the grid in row-major order, and writes nothing
(decisions D6, D12, D19, D23). -/
def Obligations.DrawTakesItsFirstFault : Prop :=
  ∀ (x y : RegIx) (n : Fin 16) (s : State),
    (∀ k, k < n.val → (∀ j, j < k → s.i.toNat + j < 4096) → 4096 ≤ s.i.toNat + k →
      exec (.drw x y n) s = .next { s with
        mode := .halted (.outOfBounds .memRead (BitVec.ofNat 18 (s.i.toNat + k))), fbChanged := false }) ∧
    (s.i.toNat + n.val ≤ 4096 → ∀ j c, j < n.val → c < 8 → s.spriteBit j c →
      64 ≤ (s.readV x).toNat + c ∨ 32 ≤ (s.readV y).toNat + j →
      (∀ j' c', c' < 8 → j' < j ∨ (j' = j ∧ c' < c) → s.spriteBit j' c' →
        (s.readV x).toNat + c' < 64 ∧ (s.readV y).toNat + j' < 32) →
      exec (.drw x y n) s = .next { s with
        mode := .halted (.outOfBounds .pixel
          (BitVec.ofNat 18 (512 * ((s.readV x).toNat + c) + ((s.readV y).toNat + j)))), fbChanged := false })

/-- 45_display.md R182: "Drawing the same sprite twice at the same place clears it and gives VF = 1 on the second
draw": the second draw restores the framebuffer, and over a blank framebuffer with any cell covered gives VF 1. -/
def Obligations.DrawingTwiceRestoresTheFramebuffer : Prop :=
  ∀ (x y : RegIx) (n : Fin 16) (s t : State), s.drawFits x y n.val → x ≠ vf → y ≠ vf →
    exec (.drw x y n) s = .next t →
    ∃ u, exec (.drw x y n) t = .next u ∧ (∀ c r, c < 64 → r < 32 → u.fb.cell c r = s.fb.cell c r) ∧
      ((∀ c r, s.fb.cell c r = false) → (∃ c r, s.covered x y n.val c r) → u.readV vf = 1)

/-- 40_cycle.md R90, 10_state.md R33, 60_exceptions.md R221: the output ports, the fault code of every reason
among them. The port list and the codes are the spec's own (decision D1). -/
def Obligations.OutputPortsShowTheRunState : Prop :=
  ∀ s : State,
    (s.waiting = true ↔ s.mode = .awaitingKey) ∧ (s.halted = true ↔ ∃ f, s.mode = .halted f) ∧
    (s.halted = false → s.faultKind = 0 ∧ s.faultValue = 0) ∧
    (∀ w, s.mode = .halted (.unrecognizedInstruction w) →
      s.faultKind.toNat = 1 ∧ s.faultValue.toNat = w.toNat) ∧
    (∀ r v, s.mode = .halted (.outOfBounds r v) → s.faultValue = v ∧
      (r = .fetch → s.faultKind = 2) ∧ (r = .memRead → s.faultKind = 3) ∧ (r = .memWrite → s.faultKind = 4) ∧
      (r = .fontWrite → s.faultKind = 5) ∧ (r = .stackOverflow → s.faultKind = 6) ∧
      (r = .stackUnderflow → s.faultKind = 7) ∧ (r = .pixel → s.faultKind = 8) ∧
      (r = .keyIndex → s.faultKind = 9)) ∧
    (∀ (c : BitVec 6) (r : BitVec 5), s.fbRdPx c r = (s.fb[r.toNat]'r.isLt)[c.toNat]'c.isLt)
end

