-- ==== Sys2Proof/Laws/State.lean ====
section
/-! SUPPORT. One lemma per field per state update: what each named operation does to each field of State. -/

namespace Sys2Proof.Machine

variable (s : State)

/-! `State.writeV` -/

@[simp] theorem State.writeV_v (x : RegIx) (b : Byte) : (s.writeV x b).v = s.v.set x.val b := rfl
@[simp] theorem State.writeV_i (x : RegIx) (b : Byte) : (s.writeV x b).i = s.i := rfl
@[simp] theorem State.writeV_pc (x : RegIx) (b : Byte) : (s.writeV x b).pc = s.pc := rfl
@[simp] theorem State.writeV_sp (x : RegIx) (b : Byte) : (s.writeV x b).sp = s.sp := rfl
@[simp] theorem State.writeV_stack (x : RegIx) (b : Byte) : (s.writeV x b).stack = s.stack := rfl
@[simp] theorem State.writeV_dt (x : RegIx) (b : Byte) : (s.writeV x b).dt = s.dt := rfl
@[simp] theorem State.writeV_st (x : RegIx) (b : Byte) : (s.writeV x b).st = s.st := rfl
@[simp] theorem State.writeV_mem (x : RegIx) (b : Byte) : (s.writeV x b).mem = s.mem := rfl
@[simp] theorem State.writeV_fb (x : RegIx) (b : Byte) : (s.writeV x b).fb = s.fb := rfl
@[simp] theorem State.writeV_mode (x : RegIx) (b : Byte) : (s.writeV x b).mode = s.mode := rfl
@[simp] theorem State.writeV_target (x : RegIx) (b : Byte) : (s.writeV x b).target = s.target := rfl
@[simp] theorem State.writeV_fbChanged (x : RegIx) (b : Byte) : (s.writeV x b).fbChanged = s.fbChanged := rfl
@[simp] theorem State.writeV_toneStop (x : RegIx) (b : Byte) : (s.writeV x b).toneStop = s.toneStop := rfl
@[simp] theorem State.writeV_ports (x : RegIx) (b : Byte) : (s.writeV x b).ports = s.ports := rfl
@[simp] theorem State.writeV_pending (x : RegIx) (b : Byte) : (s.writeV x b).pending = s.pending := rfl
@[simp] theorem State.writeV_draws (x : RegIx) (b : Byte) : (s.writeV x b).draws = s.draws := rfl
@[simp] theorem State.writeV_cfg (x : RegIx) (b : Byte) : (s.writeV x b).cfg = s.cfg := rfl

/-! `State.writeI` -/

@[simp] theorem State.writeI_v (a : Word) : (s.writeI a).v = s.v := rfl
@[simp] theorem State.writeI_i (a : Word) : (s.writeI a).i = a := rfl
@[simp] theorem State.writeI_pc (a : Word) : (s.writeI a).pc = s.pc := rfl
@[simp] theorem State.writeI_sp (a : Word) : (s.writeI a).sp = s.sp := rfl
@[simp] theorem State.writeI_stack (a : Word) : (s.writeI a).stack = s.stack := rfl
@[simp] theorem State.writeI_dt (a : Word) : (s.writeI a).dt = s.dt := rfl
@[simp] theorem State.writeI_st (a : Word) : (s.writeI a).st = s.st := rfl
@[simp] theorem State.writeI_mem (a : Word) : (s.writeI a).mem = s.mem := rfl
@[simp] theorem State.writeI_fb (a : Word) : (s.writeI a).fb = s.fb := rfl
@[simp] theorem State.writeI_mode (a : Word) : (s.writeI a).mode = s.mode := rfl
@[simp] theorem State.writeI_target (a : Word) : (s.writeI a).target = s.target := rfl
@[simp] theorem State.writeI_fbChanged (a : Word) : (s.writeI a).fbChanged = s.fbChanged := rfl
@[simp] theorem State.writeI_toneStop (a : Word) : (s.writeI a).toneStop = s.toneStop := rfl
@[simp] theorem State.writeI_ports (a : Word) : (s.writeI a).ports = s.ports := rfl
@[simp] theorem State.writeI_pending (a : Word) : (s.writeI a).pending = s.pending := rfl
@[simp] theorem State.writeI_draws (a : Word) : (s.writeI a).draws = s.draws := rfl
@[simp] theorem State.writeI_cfg (a : Word) : (s.writeI a).cfg = s.cfg := rfl

/-! `State.writePc` -/

@[simp] theorem State.writePc_v (a : Word) : (s.writePc a).v = s.v := rfl
@[simp] theorem State.writePc_i (a : Word) : (s.writePc a).i = s.i := rfl
@[simp] theorem State.writePc_pc (a : Word) : (s.writePc a).pc = a := rfl
@[simp] theorem State.writePc_sp (a : Word) : (s.writePc a).sp = s.sp := rfl
@[simp] theorem State.writePc_stack (a : Word) : (s.writePc a).stack = s.stack := rfl
@[simp] theorem State.writePc_dt (a : Word) : (s.writePc a).dt = s.dt := rfl
@[simp] theorem State.writePc_st (a : Word) : (s.writePc a).st = s.st := rfl
@[simp] theorem State.writePc_mem (a : Word) : (s.writePc a).mem = s.mem := rfl
@[simp] theorem State.writePc_fb (a : Word) : (s.writePc a).fb = s.fb := rfl
@[simp] theorem State.writePc_mode (a : Word) : (s.writePc a).mode = s.mode := rfl
@[simp] theorem State.writePc_target (a : Word) : (s.writePc a).target = s.target := rfl
@[simp] theorem State.writePc_fbChanged (a : Word) : (s.writePc a).fbChanged = s.fbChanged := rfl
@[simp] theorem State.writePc_toneStop (a : Word) : (s.writePc a).toneStop = s.toneStop := rfl
@[simp] theorem State.writePc_ports (a : Word) : (s.writePc a).ports = s.ports := rfl
@[simp] theorem State.writePc_pending (a : Word) : (s.writePc a).pending = s.pending := rfl
@[simp] theorem State.writePc_draws (a : Word) : (s.writePc a).draws = s.draws := rfl
@[simp] theorem State.writePc_cfg (a : Word) : (s.writePc a).cfg = s.cfg := rfl

/-! `State.writeDt` -/

@[simp] theorem State.writeDt_v (b : Byte) : (s.writeDt b).v = s.v := rfl
@[simp] theorem State.writeDt_i (b : Byte) : (s.writeDt b).i = s.i := rfl
@[simp] theorem State.writeDt_pc (b : Byte) : (s.writeDt b).pc = s.pc := rfl
@[simp] theorem State.writeDt_sp (b : Byte) : (s.writeDt b).sp = s.sp := rfl
@[simp] theorem State.writeDt_stack (b : Byte) : (s.writeDt b).stack = s.stack := rfl
@[simp] theorem State.writeDt_dt (b : Byte) : (s.writeDt b).dt = b := rfl
@[simp] theorem State.writeDt_st (b : Byte) : (s.writeDt b).st = s.st := rfl
@[simp] theorem State.writeDt_mem (b : Byte) : (s.writeDt b).mem = s.mem := rfl
@[simp] theorem State.writeDt_fb (b : Byte) : (s.writeDt b).fb = s.fb := rfl
@[simp] theorem State.writeDt_mode (b : Byte) : (s.writeDt b).mode = s.mode := rfl
@[simp] theorem State.writeDt_target (b : Byte) : (s.writeDt b).target = s.target := rfl
@[simp] theorem State.writeDt_fbChanged (b : Byte) : (s.writeDt b).fbChanged = s.fbChanged := rfl
@[simp] theorem State.writeDt_toneStop (b : Byte) : (s.writeDt b).toneStop = s.toneStop := rfl
@[simp] theorem State.writeDt_ports (b : Byte) : (s.writeDt b).ports = s.ports := rfl
@[simp] theorem State.writeDt_pending (b : Byte) : (s.writeDt b).pending = s.pending := rfl
@[simp] theorem State.writeDt_draws (b : Byte) : (s.writeDt b).draws = s.draws := rfl
@[simp] theorem State.writeDt_cfg (b : Byte) : (s.writeDt b).cfg = s.cfg := rfl

/-! `State.writeSt` -/

@[simp] theorem State.writeSt_v (b : Byte) : (s.writeSt b).v = s.v := rfl
@[simp] theorem State.writeSt_i (b : Byte) : (s.writeSt b).i = s.i := rfl
@[simp] theorem State.writeSt_pc (b : Byte) : (s.writeSt b).pc = s.pc := rfl
@[simp] theorem State.writeSt_sp (b : Byte) : (s.writeSt b).sp = s.sp := rfl
@[simp] theorem State.writeSt_stack (b : Byte) : (s.writeSt b).stack = s.stack := rfl
@[simp] theorem State.writeSt_dt (b : Byte) : (s.writeSt b).dt = s.dt := rfl
@[simp] theorem State.writeSt_st (b : Byte) : (s.writeSt b).st = b := rfl
@[simp] theorem State.writeSt_mem (b : Byte) : (s.writeSt b).mem = s.mem := rfl
@[simp] theorem State.writeSt_fb (b : Byte) : (s.writeSt b).fb = s.fb := rfl
@[simp] theorem State.writeSt_mode (b : Byte) : (s.writeSt b).mode = s.mode := rfl
@[simp] theorem State.writeSt_target (b : Byte) : (s.writeSt b).target = s.target := rfl
@[simp] theorem State.writeSt_fbChanged (b : Byte) : (s.writeSt b).fbChanged = s.fbChanged := rfl
@[simp] theorem State.writeSt_toneStop (b : Byte) : (s.writeSt b).toneStop = s.toneStop := rfl
@[simp] theorem State.writeSt_ports (b : Byte) : (s.writeSt b).ports = s.ports := rfl
@[simp] theorem State.writeSt_pending (b : Byte) : (s.writeSt b).pending = s.pending := rfl
@[simp] theorem State.writeSt_draws (b : Byte) : (s.writeSt b).draws = s.draws := rfl
@[simp] theorem State.writeSt_cfg (b : Byte) : (s.writeSt b).cfg = s.cfg := rfl

/-! `State.advance` -/

@[simp] theorem State.advance_v : s.advance.v = s.v := rfl
@[simp] theorem State.advance_i : s.advance.i = s.i := rfl
@[simp] theorem State.advance_pc : s.advance.pc = s.pc + 2 := rfl
@[simp] theorem State.advance_sp : s.advance.sp = s.sp := rfl
@[simp] theorem State.advance_stack : s.advance.stack = s.stack := rfl
@[simp] theorem State.advance_dt : s.advance.dt = s.dt := rfl
@[simp] theorem State.advance_st : s.advance.st = s.st := rfl
@[simp] theorem State.advance_mem : s.advance.mem = s.mem := rfl
@[simp] theorem State.advance_fb : s.advance.fb = s.fb := rfl
@[simp] theorem State.advance_mode : s.advance.mode = s.mode := rfl
@[simp] theorem State.advance_target : s.advance.target = s.target := rfl
@[simp] theorem State.advance_fbChanged : s.advance.fbChanged = s.fbChanged := rfl
@[simp] theorem State.advance_toneStop : s.advance.toneStop = s.toneStop := rfl
@[simp] theorem State.advance_ports : s.advance.ports = s.ports := rfl
@[simp] theorem State.advance_pending : s.advance.pending = s.pending := rfl
@[simp] theorem State.advance_draws : s.advance.draws = s.draws := rfl
@[simp] theorem State.advance_cfg : s.advance.cfg = s.cfg := rfl

/-! `State.skipWhen` -/

@[simp] theorem State.skipWhen_v (c : Bool) : (s.skipWhen c).v = s.v := rfl
@[simp] theorem State.skipWhen_i (c : Bool) : (s.skipWhen c).i = s.i := rfl
@[simp] theorem State.skipWhen_pc (c : Bool) : (s.skipWhen c).pc = if c then s.pc + 2 else s.pc := rfl
@[simp] theorem State.skipWhen_sp (c : Bool) : (s.skipWhen c).sp = s.sp := rfl
@[simp] theorem State.skipWhen_stack (c : Bool) : (s.skipWhen c).stack = s.stack := rfl
@[simp] theorem State.skipWhen_dt (c : Bool) : (s.skipWhen c).dt = s.dt := rfl
@[simp] theorem State.skipWhen_st (c : Bool) : (s.skipWhen c).st = s.st := rfl
@[simp] theorem State.skipWhen_mem (c : Bool) : (s.skipWhen c).mem = s.mem := rfl
@[simp] theorem State.skipWhen_fb (c : Bool) : (s.skipWhen c).fb = s.fb := rfl
@[simp] theorem State.skipWhen_mode (c : Bool) : (s.skipWhen c).mode = s.mode := rfl
@[simp] theorem State.skipWhen_target (c : Bool) : (s.skipWhen c).target = s.target := rfl
@[simp] theorem State.skipWhen_fbChanged (c : Bool) : (s.skipWhen c).fbChanged = s.fbChanged := rfl
@[simp] theorem State.skipWhen_toneStop (c : Bool) : (s.skipWhen c).toneStop = s.toneStop := rfl
@[simp] theorem State.skipWhen_ports (c : Bool) : (s.skipWhen c).ports = s.ports := rfl
@[simp] theorem State.skipWhen_pending (c : Bool) : (s.skipWhen c).pending = s.pending := rfl
@[simp] theorem State.skipWhen_draws (c : Bool) : (s.skipWhen c).draws = s.draws := rfl
@[simp] theorem State.skipWhen_cfg (c : Bool) : (s.skipWhen c).cfg = s.cfg := rfl

/-! `State.poke` -/

@[simp] theorem State.poke_v (a : Nat) (b : Byte) : (s.poke a b).v = s.v := rfl
@[simp] theorem State.poke_i (a : Nat) (b : Byte) : (s.poke a b).i = s.i := rfl
@[simp] theorem State.poke_pc (a : Nat) (b : Byte) : (s.poke a b).pc = s.pc := rfl
@[simp] theorem State.poke_sp (a : Nat) (b : Byte) : (s.poke a b).sp = s.sp := rfl
@[simp] theorem State.poke_stack (a : Nat) (b : Byte) : (s.poke a b).stack = s.stack := rfl
@[simp] theorem State.poke_dt (a : Nat) (b : Byte) : (s.poke a b).dt = s.dt := rfl
@[simp] theorem State.poke_st (a : Nat) (b : Byte) : (s.poke a b).st = s.st := rfl
@[simp] theorem State.poke_mem (a : Nat) (b : Byte) : (s.poke a b).mem = s.mem.write s.cfg a b := rfl
@[simp] theorem State.poke_fb (a : Nat) (b : Byte) : (s.poke a b).fb = s.fb := rfl
@[simp] theorem State.poke_mode (a : Nat) (b : Byte) : (s.poke a b).mode = s.mode := rfl
@[simp] theorem State.poke_target (a : Nat) (b : Byte) : (s.poke a b).target = s.target := rfl
@[simp] theorem State.poke_fbChanged (a : Nat) (b : Byte) : (s.poke a b).fbChanged = s.fbChanged := rfl
@[simp] theorem State.poke_toneStop (a : Nat) (b : Byte) : (s.poke a b).toneStop = s.toneStop := rfl
@[simp] theorem State.poke_ports (a : Nat) (b : Byte) : (s.poke a b).ports = s.ports := rfl
@[simp] theorem State.poke_pending (a : Nat) (b : Byte) : (s.poke a b).pending = s.pending := rfl
@[simp] theorem State.poke_draws (a : Nat) (b : Byte) : (s.poke a b).draws = s.draws := rfl
@[simp] theorem State.poke_cfg (a : Nat) (b : Byte) : (s.poke a b).cfg = s.cfg := rfl

/-! `State.push` -/

@[simp] theorem State.push_v (a : Word) : (s.push a).v = s.v := rfl
@[simp] theorem State.push_i (a : Word) : (s.push a).i = s.i := rfl
@[simp] theorem State.push_pc (a : Word) : (s.push a).pc = s.pc := rfl
@[simp] theorem State.push_sp (a : Word) : (s.push a).sp = s.sp + 1 := rfl
@[simp] theorem State.push_stack (a : Word) : (s.push a).stack = s.stack.setIfInBounds s.sp.toNat a := rfl
@[simp] theorem State.push_dt (a : Word) : (s.push a).dt = s.dt := rfl
@[simp] theorem State.push_st (a : Word) : (s.push a).st = s.st := rfl
@[simp] theorem State.push_mem (a : Word) : (s.push a).mem = s.mem := rfl
@[simp] theorem State.push_fb (a : Word) : (s.push a).fb = s.fb := rfl
@[simp] theorem State.push_mode (a : Word) : (s.push a).mode = s.mode := rfl
@[simp] theorem State.push_target (a : Word) : (s.push a).target = s.target := rfl
@[simp] theorem State.push_fbChanged (a : Word) : (s.push a).fbChanged = s.fbChanged := rfl
@[simp] theorem State.push_toneStop (a : Word) : (s.push a).toneStop = s.toneStop := rfl
@[simp] theorem State.push_ports (a : Word) : (s.push a).ports = s.ports := rfl
@[simp] theorem State.push_pending (a : Word) : (s.push a).pending = s.pending := rfl
@[simp] theorem State.push_draws (a : Word) : (s.push a).draws = s.draws := rfl
@[simp] theorem State.push_cfg (a : Word) : (s.push a).cfg = s.cfg := rfl

/-! `State.popTo` -/

@[simp] theorem State.popTo_v (a : Word) : (s.popTo a).v = s.v := rfl
@[simp] theorem State.popTo_i (a : Word) : (s.popTo a).i = s.i := rfl
@[simp] theorem State.popTo_pc (a : Word) : (s.popTo a).pc = a := rfl
@[simp] theorem State.popTo_sp (a : Word) : (s.popTo a).sp = s.sp - 1 := rfl
@[simp] theorem State.popTo_stack (a : Word) : (s.popTo a).stack = s.stack := rfl
@[simp] theorem State.popTo_dt (a : Word) : (s.popTo a).dt = s.dt := rfl
@[simp] theorem State.popTo_st (a : Word) : (s.popTo a).st = s.st := rfl
@[simp] theorem State.popTo_mem (a : Word) : (s.popTo a).mem = s.mem := rfl
@[simp] theorem State.popTo_fb (a : Word) : (s.popTo a).fb = s.fb := rfl
@[simp] theorem State.popTo_mode (a : Word) : (s.popTo a).mode = s.mode := rfl
@[simp] theorem State.popTo_target (a : Word) : (s.popTo a).target = s.target := rfl
@[simp] theorem State.popTo_fbChanged (a : Word) : (s.popTo a).fbChanged = s.fbChanged := rfl
@[simp] theorem State.popTo_toneStop (a : Word) : (s.popTo a).toneStop = s.toneStop := rfl
@[simp] theorem State.popTo_ports (a : Word) : (s.popTo a).ports = s.ports := rfl
@[simp] theorem State.popTo_pending (a : Word) : (s.popTo a).pending = s.pending := rfl
@[simp] theorem State.popTo_draws (a : Word) : (s.popTo a).draws = s.draws := rfl
@[simp] theorem State.popTo_cfg (a : Word) : (s.popTo a).cfg = s.cfg := rfl

/-! `State.writeFb` -/

@[simp] theorem State.writeFb_v (fb : Framebuffer) : (s.writeFb fb).v = s.v := rfl
@[simp] theorem State.writeFb_i (fb : Framebuffer) : (s.writeFb fb).i = s.i := rfl
@[simp] theorem State.writeFb_pc (fb : Framebuffer) : (s.writeFb fb).pc = s.pc := rfl
@[simp] theorem State.writeFb_sp (fb : Framebuffer) : (s.writeFb fb).sp = s.sp := rfl
@[simp] theorem State.writeFb_stack (fb : Framebuffer) : (s.writeFb fb).stack = s.stack := rfl
@[simp] theorem State.writeFb_dt (fb : Framebuffer) : (s.writeFb fb).dt = s.dt := rfl
@[simp] theorem State.writeFb_st (fb : Framebuffer) : (s.writeFb fb).st = s.st := rfl
@[simp] theorem State.writeFb_mem (fb : Framebuffer) : (s.writeFb fb).mem = s.mem := rfl
@[simp] theorem State.writeFb_fb (fb : Framebuffer) : (s.writeFb fb).fb = fb := rfl
@[simp] theorem State.writeFb_mode (fb : Framebuffer) : (s.writeFb fb).mode = s.mode := rfl
@[simp] theorem State.writeFb_target (fb : Framebuffer) : (s.writeFb fb).target = s.target := rfl
@[simp] theorem State.writeFb_fbChanged (fb : Framebuffer) : (s.writeFb fb).fbChanged = true := rfl
@[simp] theorem State.writeFb_toneStop (fb : Framebuffer) : (s.writeFb fb).toneStop = s.toneStop := rfl
@[simp] theorem State.writeFb_ports (fb : Framebuffer) : (s.writeFb fb).ports = s.ports := rfl
@[simp] theorem State.writeFb_pending (fb : Framebuffer) : (s.writeFb fb).pending = s.pending := rfl
@[simp] theorem State.writeFb_draws (fb : Framebuffer) : (s.writeFb fb).draws = s.draws := rfl
@[simp] theorem State.writeFb_cfg (fb : Framebuffer) : (s.writeFb fb).cfg = s.cfg := rfl

/-! `State.beginCycle` -/

@[simp] theorem State.beginCycle_v : s.beginCycle.v = s.v := rfl
@[simp] theorem State.beginCycle_i : s.beginCycle.i = s.i := rfl
@[simp] theorem State.beginCycle_pc : s.beginCycle.pc = s.pc := rfl
@[simp] theorem State.beginCycle_sp : s.beginCycle.sp = s.sp := rfl
@[simp] theorem State.beginCycle_stack : s.beginCycle.stack = s.stack := rfl
@[simp] theorem State.beginCycle_dt : s.beginCycle.dt = s.dt := rfl
@[simp] theorem State.beginCycle_st : s.beginCycle.st = s.st := rfl
@[simp] theorem State.beginCycle_mem : s.beginCycle.mem = s.mem := rfl
@[simp] theorem State.beginCycle_fb : s.beginCycle.fb = s.fb := rfl
@[simp] theorem State.beginCycle_mode : s.beginCycle.mode = s.mode := rfl
@[simp] theorem State.beginCycle_target : s.beginCycle.target = s.target := rfl
@[simp] theorem State.beginCycle_fbChanged : s.beginCycle.fbChanged = false := rfl
@[simp] theorem State.beginCycle_toneStop : s.beginCycle.toneStop = false := rfl
@[simp] theorem State.beginCycle_ports : s.beginCycle.ports = s.nextInputs := rfl
@[simp] theorem State.beginCycle_pending : s.beginCycle.pending = s.pending.tail := rfl
@[simp] theorem State.beginCycle_draws : s.beginCycle.draws = if s.pending.isEmpty then s.draws + 1 else s.draws := rfl
@[simp] theorem State.beginCycle_cfg : s.beginCycle.cfg = s.cfg := rfl

/-! `State.awaitKey` -/

@[simp] theorem State.awaitKey_v (x : RegIx) : (s.awaitKey x).v = s.v := rfl
@[simp] theorem State.awaitKey_i (x : RegIx) : (s.awaitKey x).i = s.i := rfl
@[simp] theorem State.awaitKey_pc (x : RegIx) : (s.awaitKey x).pc = s.pc := rfl
@[simp] theorem State.awaitKey_sp (x : RegIx) : (s.awaitKey x).sp = s.sp := rfl
@[simp] theorem State.awaitKey_stack (x : RegIx) : (s.awaitKey x).stack = s.stack := rfl
@[simp] theorem State.awaitKey_dt (x : RegIx) : (s.awaitKey x).dt = s.dt := rfl
@[simp] theorem State.awaitKey_st (x : RegIx) : (s.awaitKey x).st = s.st := rfl
@[simp] theorem State.awaitKey_mem (x : RegIx) : (s.awaitKey x).mem = s.mem := rfl
@[simp] theorem State.awaitKey_fb (x : RegIx) : (s.awaitKey x).fb = s.fb := rfl
@[simp] theorem State.awaitKey_mode (x : RegIx) : (s.awaitKey x).mode = .awaitingKey := rfl
@[simp] theorem State.awaitKey_target (x : RegIx) : (s.awaitKey x).target = x := rfl
@[simp] theorem State.awaitKey_fbChanged (x : RegIx) : (s.awaitKey x).fbChanged = s.fbChanged := rfl
@[simp] theorem State.awaitKey_toneStop (x : RegIx) : (s.awaitKey x).toneStop = s.toneStop := rfl
@[simp] theorem State.awaitKey_ports (x : RegIx) : (s.awaitKey x).ports = s.ports := rfl
@[simp] theorem State.awaitKey_pending (x : RegIx) : (s.awaitKey x).pending = s.pending := rfl
@[simp] theorem State.awaitKey_draws (x : RegIx) : (s.awaitKey x).draws = s.draws := rfl
@[simp] theorem State.awaitKey_cfg (x : RegIx) : (s.awaitKey x).cfg = s.cfg := rfl

/-! `State.resumeFetch` -/

@[simp] theorem State.resumeFetch_v : s.resumeFetch.v = s.v := rfl
@[simp] theorem State.resumeFetch_i : s.resumeFetch.i = s.i := rfl
@[simp] theorem State.resumeFetch_pc : s.resumeFetch.pc = s.pc := rfl
@[simp] theorem State.resumeFetch_sp : s.resumeFetch.sp = s.sp := rfl
@[simp] theorem State.resumeFetch_stack : s.resumeFetch.stack = s.stack := rfl
@[simp] theorem State.resumeFetch_dt : s.resumeFetch.dt = s.dt := rfl
@[simp] theorem State.resumeFetch_st : s.resumeFetch.st = s.st := rfl
@[simp] theorem State.resumeFetch_mem : s.resumeFetch.mem = s.mem := rfl
@[simp] theorem State.resumeFetch_fb : s.resumeFetch.fb = s.fb := rfl
@[simp] theorem State.resumeFetch_mode : s.resumeFetch.mode = .fetching := rfl
@[simp] theorem State.resumeFetch_target : s.resumeFetch.target = s.target := rfl
@[simp] theorem State.resumeFetch_fbChanged : s.resumeFetch.fbChanged = s.fbChanged := rfl
@[simp] theorem State.resumeFetch_toneStop : s.resumeFetch.toneStop = s.toneStop := rfl
@[simp] theorem State.resumeFetch_ports : s.resumeFetch.ports = s.ports := rfl
@[simp] theorem State.resumeFetch_pending : s.resumeFetch.pending = s.pending := rfl
@[simp] theorem State.resumeFetch_draws : s.resumeFetch.draws = s.draws := rfl
@[simp] theorem State.resumeFetch_cfg : s.resumeFetch.cfg = s.cfg := rfl

/-! `State.timerStep` -/

@[simp] theorem State.timerStep_v : s.timerStep.v = s.v := rfl
@[simp] theorem State.timerStep_i : s.timerStep.i = s.i := rfl
@[simp] theorem State.timerStep_pc : s.timerStep.pc = s.pc := rfl
@[simp] theorem State.timerStep_sp : s.timerStep.sp = s.sp := rfl
@[simp] theorem State.timerStep_stack : s.timerStep.stack = s.stack := rfl
@[simp] theorem State.timerStep_dt : s.timerStep.dt = timerDown s.dt := rfl
@[simp] theorem State.timerStep_st : s.timerStep.st = timerDown s.st := rfl
@[simp] theorem State.timerStep_mem : s.timerStep.mem = s.mem := rfl
@[simp] theorem State.timerStep_fb : s.timerStep.fb = s.fb := rfl
@[simp] theorem State.timerStep_mode : s.timerStep.mode = s.mode := rfl
@[simp] theorem State.timerStep_target : s.timerStep.target = s.target := rfl
@[simp] theorem State.timerStep_fbChanged : s.timerStep.fbChanged = s.fbChanged := rfl
@[simp] theorem State.timerStep_toneStop : s.timerStep.toneStop = if s.st = 1 then true else s.toneStop := rfl
@[simp] theorem State.timerStep_ports : s.timerStep.ports = s.ports := rfl
@[simp] theorem State.timerStep_pending : s.timerStep.pending = s.pending := rfl
@[simp] theorem State.timerStep_draws : s.timerStep.draws = s.draws := rfl
@[simp] theorem State.timerStep_cfg : s.timerStep.cfg = s.cfg := rfl

/-! `State.raise` -/

@[simp] theorem State.raise_v (f : FatalError) : (s.raise f).v = s.v := rfl
@[simp] theorem State.raise_i (f : FatalError) : (s.raise f).i = s.i := rfl
@[simp] theorem State.raise_pc (f : FatalError) : (s.raise f).pc = s.pc := rfl
@[simp] theorem State.raise_sp (f : FatalError) : (s.raise f).sp = s.sp := rfl
@[simp] theorem State.raise_stack (f : FatalError) : (s.raise f).stack = s.stack := rfl
@[simp] theorem State.raise_dt (f : FatalError) : (s.raise f).dt = s.dt := rfl
@[simp] theorem State.raise_st (f : FatalError) : (s.raise f).st = s.st := rfl
@[simp] theorem State.raise_mem (f : FatalError) : (s.raise f).mem = s.mem := rfl
@[simp] theorem State.raise_fb (f : FatalError) : (s.raise f).fb = s.fb := rfl
@[simp] theorem State.raise_mode (f : FatalError) : (s.raise f).mode = .halted f := rfl
@[simp] theorem State.raise_target (f : FatalError) : (s.raise f).target = s.target := rfl
@[simp] theorem State.raise_fbChanged (f : FatalError) : (s.raise f).fbChanged = false := rfl
@[simp] theorem State.raise_toneStop (f : FatalError) : (s.raise f).toneStop = s.toneStop := rfl
@[simp] theorem State.raise_ports (f : FatalError) : (s.raise f).ports = s.ports := rfl
@[simp] theorem State.raise_pending (f : FatalError) : (s.raise f).pending = s.pending := rfl
@[simp] theorem State.raise_draws (f : FatalError) : (s.raise f).draws = s.draws := rfl
@[simp] theorem State.raise_cfg (f : FatalError) : (s.raise f).cfg = s.cfg := rfl

end Sys2Proof.Machine
end

