-- ==== Sys2Proof/Laws/Reads.lean ====
section
/-! SUPPORT. The reads of the state (a register, a byte of memory, the key sample) through every update that
does not touch what they read. -/

namespace Sys2Proof.Machine

variable (s : State)

@[simp] theorem State.writeV_peek (x : RegIx) (b : Byte) (q : Nat) : (s.writeV x b).peek q = s.peek q := rfl
@[simp] theorem State.writeV_key (x : RegIx) (b : Byte) : (s.writeV x b).key = s.key := rfl

@[simp] theorem State.writeI_readV (a : Word) (z : RegIx) : (s.writeI a).readV z = s.readV z := rfl
@[simp] theorem State.writeI_peek (a : Word) (q : Nat) : (s.writeI a).peek q = s.peek q := rfl
@[simp] theorem State.writeI_key (a : Word) : (s.writeI a).key = s.key := rfl

@[simp] theorem State.writePc_readV (a : Word) (z : RegIx) : (s.writePc a).readV z = s.readV z := rfl
@[simp] theorem State.writePc_peek (a : Word) (q : Nat) : (s.writePc a).peek q = s.peek q := rfl
@[simp] theorem State.writePc_key (a : Word) : (s.writePc a).key = s.key := rfl

@[simp] theorem State.writeDt_readV (b : Byte) (z : RegIx) : (s.writeDt b).readV z = s.readV z := rfl
@[simp] theorem State.writeDt_peek (b : Byte) (q : Nat) : (s.writeDt b).peek q = s.peek q := rfl
@[simp] theorem State.writeDt_key (b : Byte) : (s.writeDt b).key = s.key := rfl

@[simp] theorem State.writeSt_readV (b : Byte) (z : RegIx) : (s.writeSt b).readV z = s.readV z := rfl
@[simp] theorem State.writeSt_peek (b : Byte) (q : Nat) : (s.writeSt b).peek q = s.peek q := rfl
@[simp] theorem State.writeSt_key (b : Byte) : (s.writeSt b).key = s.key := rfl

@[simp] theorem State.advance_readV (z : RegIx) : s.advance.readV z = s.readV z := rfl
@[simp] theorem State.advance_peek (q : Nat) : s.advance.peek q = s.peek q := rfl
@[simp] theorem State.advance_key : s.advance.key = s.key := rfl

@[simp] theorem State.skipWhen_readV (c : Bool) (z : RegIx) : (s.skipWhen c).readV z = s.readV z := rfl
@[simp] theorem State.skipWhen_peek (c : Bool) (q : Nat) : (s.skipWhen c).peek q = s.peek q := rfl
@[simp] theorem State.skipWhen_key (c : Bool) : (s.skipWhen c).key = s.key := rfl

@[simp] theorem State.poke_readV (a : Nat) (b : Byte) (z : RegIx) : (s.poke a b).readV z = s.readV z := rfl
@[simp] theorem State.poke_key (a : Nat) (b : Byte) : (s.poke a b).key = s.key := rfl

@[simp] theorem State.push_readV (a : Word) (z : RegIx) : (s.push a).readV z = s.readV z := rfl
@[simp] theorem State.push_peek (a : Word) (q : Nat) : (s.push a).peek q = s.peek q := rfl
@[simp] theorem State.push_key (a : Word) : (s.push a).key = s.key := rfl

@[simp] theorem State.popTo_readV (a : Word) (z : RegIx) : (s.popTo a).readV z = s.readV z := rfl
@[simp] theorem State.popTo_peek (a : Word) (q : Nat) : (s.popTo a).peek q = s.peek q := rfl
@[simp] theorem State.popTo_key (a : Word) : (s.popTo a).key = s.key := rfl

@[simp] theorem State.writeFb_readV (fb : Framebuffer) (z : RegIx) : (s.writeFb fb).readV z = s.readV z := rfl
@[simp] theorem State.writeFb_peek (fb : Framebuffer) (q : Nat) : (s.writeFb fb).peek q = s.peek q := rfl
@[simp] theorem State.writeFb_key (fb : Framebuffer) : (s.writeFb fb).key = s.key := rfl

@[simp] theorem State.beginCycle_readV (z : RegIx) : s.beginCycle.readV z = s.readV z := rfl
@[simp] theorem State.beginCycle_peek (q : Nat) : s.beginCycle.peek q = s.peek q := rfl

@[simp] theorem State.awaitKey_readV (x : RegIx) (z : RegIx) : (s.awaitKey x).readV z = s.readV z := rfl
@[simp] theorem State.awaitKey_peek (x : RegIx) (q : Nat) : (s.awaitKey x).peek q = s.peek q := rfl
@[simp] theorem State.awaitKey_key (x : RegIx) : (s.awaitKey x).key = s.key := rfl

@[simp] theorem State.resumeFetch_readV (z : RegIx) : s.resumeFetch.readV z = s.readV z := rfl
@[simp] theorem State.resumeFetch_peek (q : Nat) : s.resumeFetch.peek q = s.peek q := rfl
@[simp] theorem State.resumeFetch_key : s.resumeFetch.key = s.key := rfl

@[simp] theorem State.timerStep_readV (z : RegIx) : s.timerStep.readV z = s.readV z := rfl
@[simp] theorem State.timerStep_peek (q : Nat) : s.timerStep.peek q = s.peek q := rfl
@[simp] theorem State.timerStep_key : s.timerStep.key = s.key := rfl

@[simp] theorem State.raise_readV (f : FatalError) (z : RegIx) : (s.raise f).readV z = s.readV z := rfl
@[simp] theorem State.raise_peek (f : FatalError) (q : Nat) : (s.raise f).peek q = s.peek q := rfl
@[simp] theorem State.raise_key (f : FatalError) : (s.raise f).key = s.key := rfl

end Sys2Proof.Machine
end

