-- ==== Sys2Proof/Laws/Memory.lean ====
section
/-! SUPPORT. Laws of memory: read after write, writes leave every other byte alone, and every memory operation
keeps the canonical form. -/

namespace Sys2Proof.Machine

/-! ## Lists of cells -/

theorem Memory.lookup_erase (m : Memory) (a c : Nat) :
    (m.erase a).lookup c = if c = a then none else m.lookup c := by
  induction m with
  | nil => simp [Memory.erase, Memory.lookup]
  | cons p m ih =>
    obtain ⟨k, b⟩ := p
    simp only [Memory.erase] at ih ⊢
    by_cases hk : k = a
    · subst hk
      simp only [List.filter_cons, bne_self_eq_false, Bool.false_eq_true, if_false, ih, Memory.lookup]
      by_cases hc : c = k
      · simp [hc]
      · simp [hc, Ne.symm hc]
    · by_cases hc : c = a
      · subst hc
        simp [Memory.lookup, hk, ih]
      · simp [Memory.lookup, hk, ih, hc]

theorem Memory.lookup_insert_self (m : Memory) (a : Nat) (b : Byte) (h : m.lookup a = none) :
    (m.insert a b).lookup a = some b := by
  induction m with
  | nil => simp [Memory.insert, Memory.lookup]
  | cons p m ih =>
    obtain ⟨k, c⟩ := p
    simp only [Memory.lookup] at h
    by_cases hk : k = a
    · simp [hk] at h
    · simp only [hk, if_false] at h
      by_cases hlt : a < k
      · simp [Memory.insert, hlt, Memory.lookup]
      · simp [Memory.insert, hlt, Memory.lookup, hk, ih h]

theorem Memory.lookup_insert_ne (m : Memory) (a c : Nat) (b : Byte) (h : c ≠ a) :
    (m.insert a b).lookup c = m.lookup c := by
  induction m with
  | nil => simp [Memory.insert, Memory.lookup, Ne.symm h]
  | cons p m ih =>
    obtain ⟨k, d⟩ := p
    by_cases hlt : a < k
    · simp [Memory.insert, hlt, Memory.lookup, Ne.symm h]
    · simp [Memory.insert, hlt, Memory.lookup, ih]

/-- Reading after a write, on any list of cells: the written byte at its address, every other as before. -/
theorem Memory.read_write (cfg : Config) (m : Memory) (a c : Nat) (b : Byte) :
    (m.write cfg a b).read cfg c = if c = a then b else m.read cfg c := by
  unfold Memory.write Memory.read
  by_cases hc : c = a
  · subst hc
    by_cases hb : b = resetByte cfg c
    · simp [hb, Memory.lookup_erase]
    · simp [hb, Memory.lookup_insert_self _ _ _ (by simp [Memory.lookup_erase] : (m.erase c).lookup c = none)]
  · by_cases hb : b = resetByte cfg a
    · simp [hb, hc, Memory.lookup_erase]
    · simp [hb, hc, Memory.lookup_insert_ne, Memory.lookup_erase]

/-! ## The canonical form -/

theorem Memory.mem_insert (m : Memory) (a : Nat) (b : Byte) (p : Host.Cell) :
    p ∈ m.insert a b ↔ p = (a, b) ∨ p ∈ m := by
  induction m with
  | nil => simp [Memory.insert]
  | cons q m ih =>
    obtain ⟨k, c⟩ := q
    by_cases hlt : a < k
    · simp [Memory.insert, hlt]
    · simp [Memory.insert, hlt, ih]; tauto

theorem Memory.pairwise_insert (m : Memory) (a : Nat) (b : Byte)
    (hs : m.Pairwise (fun p q => p.1 < q.1)) (hn : ∀ p ∈ m, p.1 ≠ a) :
    (m.insert a b).Pairwise (fun p q => p.1 < q.1) := by
  induction m with
  | nil => simp [Memory.insert]
  | cons q m ih =>
    obtain ⟨k, c⟩ := q
    obtain ⟨hk, hs⟩ := List.pairwise_cons.1 hs
    by_cases hlt : a < k
    · simp only [Memory.insert, hlt, if_true, List.pairwise_cons]
      refine ⟨?_, hk, hs⟩
      intro p hp
      rcases List.mem_cons.1 hp with rfl | hp
      · exact hlt
      · exact Nat.lt_trans hlt (hk p hp)
    · simp only [Memory.insert, hlt, if_false, List.pairwise_cons]
      refine ⟨?_, ih hs (fun p hp => hn p (List.mem_cons_of_mem _ hp))⟩
      intro p hp
      rcases (Memory.mem_insert m a b p).1 hp with rfl | hp
      · have := hn (k, c) List.mem_cons_self
        simp only [ne_eq] at this ⊢; omega
      · exact hk p hp

theorem Memory.wf_iff (cfg : Config) (m : Memory) :
    m.wf cfg = true ↔
      m.Pairwise (fun p q => p.1 < q.1) ∧ ∀ p ∈ m, p.1 < 4096 ∧ p.2 ≠ resetByte cfg p.1 := by
  simp [Memory.wf, List.all_eq_true]

theorem Memory.wf_nil (cfg : Config) : Memory.wf cfg [] = true := by simp [Memory.wf_iff]

theorem Memory.wf_erase (cfg : Config) (m : Memory) (a : Nat) (h : m.wf cfg = true) :
    (m.erase a).wf cfg = true := by
  rw [Memory.wf_iff] at h ⊢
  refine ⟨h.1.filter _, fun p hp => h.2 p (List.mem_filter.1 hp).1⟩

/-- A write inside the 4096 bytes keeps the canonical form. -/
theorem Memory.wf_write (cfg : Config) (m : Memory) (a : Nat) (b : Byte) (ha : a < 4096)
    (h : m.wf cfg = true) : (m.write cfg a b).wf cfg = true := by
  have he := Memory.wf_erase cfg m a h
  unfold Memory.write
  by_cases hb : b = resetByte cfg a
  · simpa [hb] using he
  · rw [if_neg hb]
    rw [Memory.wf_iff] at he ⊢
    refine ⟨Memory.pairwise_insert _ _ _ he.1 ?_, ?_⟩
    · intro p hp
      simpa using (List.mem_filter.1 hp).2
    · intro p hp
      rcases (Memory.mem_insert _ _ _ _).1 hp with rfl | hp
      · exact ⟨ha, hb⟩
      · exact he.2 p hp

/-! ## The state's memory -/

@[simp] theorem State.peek_poke (s : State) (a c : Nat) (b : Byte) :
    (s.poke a b).peek c = if c = a then b else s.peek c := Memory.read_write s.cfg s.mem a c b

theorem State.pokeAll_eq (s : State) (a : Nat) (bs : List Byte) :
    s.pokeAll a bs = { s with mem := (s.pokeAll a bs).mem } := by
  induction bs generalizing s a with
  | nil => rfl
  | cons b bs ih => rw [State.pokeAll, ih]; rfl

/-- What a store of several bytes does to every read: the stored bytes at `a` on, every other byte as
before. -/
theorem State.peek_pokeAll (s : State) (a c : Nat) (bs : List Byte) :
    (s.pokeAll a bs).peek c = if h : a ≤ c ∧ c - a < bs.length then bs[c - a]'h.2 else s.peek c := by
  induction bs generalizing s a with
  | nil => simp [State.pokeAll]
  | cons b bs ih =>
    rw [State.pokeAll, ih]
    by_cases hca : c = a
    · subst hca
      simp
    · by_cases hlt : a < c
      · have h1 : c - a = (c - (a + 1)) + 1 := by omega
        have h2 : a + 1 ≤ c := hlt
        have h3 : a ≤ c := by omega
        by_cases hlen : c - (a + 1) < bs.length
        · simp [h1, h2, h3, hlen]
        · simp [h1, h2, h3, hlen, hca]
      · have h2 : ¬ a + 1 ≤ c := by omega
        have h3 : ¬ a ≤ c := by omega
        simp [h2, h3, hca]

theorem State.wf_pokeAll (s : State) (a : Nat) (bs : List Byte) (ha : a + bs.length ≤ 4096)
    (h : s.mem.wf s.cfg = true) : (s.pokeAll a bs).mem.wf s.cfg = true := by
  induction bs generalizing s a with
  | nil => exact h
  | cons b bs ih =>
    simp only [List.length_cons] at ha
    have := ih (s.poke a b) (a + 1) (by omega) (Memory.wf_write s.cfg s.mem a b (by omega) h)
    simpa [State.pokeAll] using this

end Sys2Proof.Machine
end

