-- ==== Sys2Proof/Laws/Store.lean ====
section
/-! SUPPORT. What a store of several bytes does to each field of the state: only memory changes. -/

namespace Sys2Proof.Machine

variable (s : State) (a : Nat) (bs : List Byte)

@[simp] theorem State.pokeAll_v : (s.pokeAll a bs).v = s.v := by rw [State.pokeAll_eq]
@[simp] theorem State.pokeAll_i : (s.pokeAll a bs).i = s.i := by rw [State.pokeAll_eq]
@[simp] theorem State.pokeAll_pc : (s.pokeAll a bs).pc = s.pc := by rw [State.pokeAll_eq]
@[simp] theorem State.pokeAll_sp : (s.pokeAll a bs).sp = s.sp := by rw [State.pokeAll_eq]
@[simp] theorem State.pokeAll_stack : (s.pokeAll a bs).stack = s.stack := by rw [State.pokeAll_eq]
@[simp] theorem State.pokeAll_dt : (s.pokeAll a bs).dt = s.dt := by rw [State.pokeAll_eq]
@[simp] theorem State.pokeAll_st : (s.pokeAll a bs).st = s.st := by rw [State.pokeAll_eq]
@[simp] theorem State.pokeAll_fb : (s.pokeAll a bs).fb = s.fb := by rw [State.pokeAll_eq]
@[simp] theorem State.pokeAll_mode : (s.pokeAll a bs).mode = s.mode := by rw [State.pokeAll_eq]
@[simp] theorem State.pokeAll_target : (s.pokeAll a bs).target = s.target := by rw [State.pokeAll_eq]
@[simp] theorem State.pokeAll_fbChanged : (s.pokeAll a bs).fbChanged = s.fbChanged := by rw [State.pokeAll_eq]
@[simp] theorem State.pokeAll_toneStop : (s.pokeAll a bs).toneStop = s.toneStop := by rw [State.pokeAll_eq]
@[simp] theorem State.pokeAll_ports : (s.pokeAll a bs).ports = s.ports := by rw [State.pokeAll_eq]
@[simp] theorem State.pokeAll_pending : (s.pokeAll a bs).pending = s.pending := by rw [State.pokeAll_eq]
@[simp] theorem State.pokeAll_draws : (s.pokeAll a bs).draws = s.draws := by rw [State.pokeAll_eq]
@[simp] theorem State.pokeAll_cfg : (s.pokeAll a bs).cfg = s.cfg := by rw [State.pokeAll_eq]
@[simp] theorem State.pokeAll_readV (z : RegIx) : (s.pokeAll a bs).readV z = s.readV z := by
  rw [State.pokeAll_eq]; rfl
@[simp] theorem State.pokeAll_key : (s.pokeAll a bs).key = s.key := by rw [State.pokeAll_eq]; rfl

end Sys2Proof.Machine
end

