-- ==== Sys2Proof/Laws/Registers.lean ====
section
/-! SUPPORT. Laws of the general registers: read after write, the group load of Fx65 and the group dump of
Fx55, the ALU's two writes, and the checks made before any write. -/

namespace Sys2Proof.Machine

/-- The register file written at one place. -/
@[simp] theorem State.readV_writeV (s : State) (x z : RegIx) (b : Byte) :
    (s.writeV x b).readV z = if z = x then b else s.readV z := by
  simp only [State.readV, State.writeV, Vector.getElem_set, Fin.ext_iff, eq_comm]

/-- Two register files that agree on every register are equal. -/
theorem regs_ext {v w : Vector Byte 16} (h : ∀ x : RegIx, v[x.val] = w[x.val]) : v = w := by
  apply Vector.ext
  intro k hk
  exact h ⟨k, hk⟩

/-! ## The ALU's writes (41_alu.md R120, R122) -/

theorem State.writeResultAndFlag_eq (s : State) (x : RegIx) (r f : Byte) :
    s.writeResultAndFlag x r f = { s with v := (s.writeResultAndFlag x r f).v } := by
  unfold State.writeResultAndFlag
  split <;> rfl

theorem State.readV_writeResultAndFlag (s : State) (x z : RegIx) (r f : Byte) :
    (s.writeResultAndFlag x r f).readV z =
      if z = x ∧ (x ≠ vf ∨ s.cfg.vfDestOrder = .resultLast) then r
      else if z = vf then f else s.readV z := by
  unfold State.writeResultAndFlag
  cases h : s.cfg.vfDestOrder
  · simp only [State.readV_writeV, reduceCtorEq, or_false]
    by_cases hv : z = vf
    · subst hv
      by_cases hx : vf = x <;> simp [hx]
    · by_cases hx : z = x
      · subst hx; simp [hv]
      · simp [hv, hx]
  · simp only [State.readV_writeV, or_true, and_true]

theorem State.writeLogic_eq (s : State) (x : RegIx) (r : Byte) :
    s.writeLogic x r = { s with v := (s.writeLogic x r).v } := by
  unfold State.writeLogic
  split <;> rfl

theorem State.readV_writeLogic (s : State) (x z : RegIx) (r : Byte) :
    (s.writeLogic x r).readV z =
      if z = vf ∧ s.cfg.logicOpVf = .zero then 0 else if z = x then r else s.readV z := by
  unfold State.writeLogic
  cases s.cfg.logicOpVf <;> simp

/-! ## Register groups (43_transfer.md R156, R157) -/

theorem mem_regsUpTo (x z : RegIx) : z ∈ regsUpTo x ↔ z ≤ x := by
  simp [regsUpTo]

theorem regsUpTo_eq_take : ∀ x : RegIx, regsUpTo x = (List.finRange 16).take (x.val + 1) := by decide

theorem regsUpTo_nodup (x : RegIx) : (regsUpTo x).Nodup :=
  (List.nodup_finRange 16).filter _

/-- The group load written as a loop over any registers without repeats. -/
theorem foldl_load_readV (ks : List RegIx) (hn : ks.Nodup) (s : State) (z : RegIx) :
    (ks.foldl (fun t k => t.writeV k (t.peek (t.i.toNat + k.val))) s).readV z =
      if z ∈ ks then s.peek (s.i.toNat + z.val) else s.readV z := by
  induction ks generalizing s with
  | nil => simp
  | cons k ks ih =>
    obtain ⟨hk, hn⟩ := List.nodup_cons.1 hn
    rw [List.foldl_cons, ih hn]
    by_cases hz : z = k
    · subst hz; simp [hk]
    · by_cases hm : z ∈ ks <;> simp [hz, hm]

theorem foldl_load_eq (ks : List RegIx) (s : State) :
    ks.foldl (fun t k => t.writeV k (t.peek (t.i.toNat + k.val))) s =
      { s with v := (ks.foldl (fun t k => t.writeV k (t.peek (t.i.toNat + k.val))) s).v } := by
  induction ks generalizing s with
  | nil => rfl
  | cons k ks ih => rw [List.foldl_cons, ih]; rfl

/-- Fx65's load: `V[0]` to `V[x]` from memory at `I`, every other register as before. -/
theorem State.readV_loadRegs (s : State) (x z : RegIx) :
    (s.loadRegs x).readV z = if z ≤ x then s.peek (s.i.toNat + z.val) else s.readV z := by
  rw [State.loadRegs, foldl_load_readV _ (regsUpTo_nodup x)]
  simp only [mem_regsUpTo]

theorem State.loadRegs_eq (s : State) (x : RegIx) : s.loadRegs x = { s with v := (s.loadRegs x).v } :=
  foldl_load_eq _ s

@[simp] theorem State.dumpBytes_length (s : State) (x : RegIx) : (s.dumpBytes x).length = x.val + 1 := by
  simp [State.dumpBytes, regsUpTo_eq_take]

theorem State.dumpBytes_getElem (s : State) (x : RegIx) (k : Nat) (h : k < (s.dumpBytes x).length) :
    (s.dumpBytes x)[k] = s.readV ⟨k, by have := s.dumpBytes_length x; omega⟩ := by
  simp [State.dumpBytes, regsUpTo_eq_take]

@[simp] theorem bcdDigits_length (a : Byte) : (bcdDigits a).length = 3 := rfl

/-! ## Checks before any write (43_transfer.md R150) -/

@[simp] theorem State.unlessFault_none (s t : State) : s.unlessFault none t = t := rfl

@[simp] theorem State.unlessFault_some (s t : State) (f : FatalError) : s.unlessFault (some f) t = s.raise f := rfl

theorem firstFault_eq_none {α : Type} (check : α → Option FatalError) (as : List α) :
    firstFault check as = none ↔ ∀ a ∈ as, check a = none := by
  simp [firstFault]

theorem mem_effectiveAddresses (s : State) (n a : Nat) :
    a ∈ s.effectiveAddresses n ↔ s.i.toNat ≤ a ∧ a < s.i.toNat + n := by
  simp only [State.effectiveAddresses, List.mem_map, List.mem_range]
  constructor
  · rintro ⟨k, hk, rfl⟩; omega
  · rintro ⟨h1, h2⟩; exact ⟨a - s.i.toNat, by omega, by omega⟩

theorem readFault_eq_none (a : Nat) : readFault a = none ↔ a < 4096 := by
  simp [readFault]

theorem writeFault_eq_none (cfg : Config) (a : Nat) :
    writeFault cfg a = none ↔ a < 4096 ∧ (cfg.fontWritePolicy = .fault → 80 ≤ a) := by
  unfold writeFault
  split
  · simp; omega
  · split
    · next h => simp [h.2]; omega
    · next h1 h2 =>
        simp only [true_iff]
        exact ⟨by omega, fun hp => by by_contra hlt; exact h2 ⟨by omega, hp⟩⟩

/-- A load of `n` bytes at `I` passes its check exactly when they all lie inside memory. -/
theorem State.loadFault_eq_none (s : State) (n : Nat) :
    s.loadFault n = none ↔ n = 0 ∨ s.i.toNat + n ≤ 4096 := by
  simp only [State.loadFault, firstFault_eq_none, mem_effectiveAddresses, readFault_eq_none]
  constructor
  · intro h
    by_cases hn : n = 0
    · exact .inl hn
    · have := h (s.i.toNat + n - 1) ⟨by omega, by omega⟩
      exact .inr (by omega)
  · intro h a ha; omega

/-- A store of `n > 0` bytes at `I` passes its check exactly when they all lie inside memory and, under
`FONT_WRITE_POLICY = fault`, outside the font. -/
theorem State.storeFault_eq_none (s : State) (n : Nat) (hn : 0 < n) :
    s.storeFault n = none ↔
      s.i.toNat + n ≤ 4096 ∧ (s.cfg.fontWritePolicy = .fault → 80 ≤ s.i.toNat) := by
  simp only [State.storeFault, firstFault_eq_none, mem_effectiveAddresses, writeFault_eq_none]
  constructor
  · intro h
    have h1 := (h (s.i.toNat + n - 1) ⟨by omega, by omega⟩).1
    exact ⟨by omega, fun hp => (h s.i.toNat ⟨by omega, by omega⟩).2 hp⟩
  · intro h a ha
    exact ⟨by omega, fun hp => by have := h.2 hp; omega⟩

theorem keyFault_eq_none (k : Byte) : keyFault k = none ↔ k.toNat ≤ 15 := by
  simp [keyFault]

theorem State.callFault_eq_none (s : State) : s.callFault = none ↔ s.sp.toNat < 16 := by
  simp [State.callFault]

end Sys2Proof.Machine
end

