-- ==== Sys2Proof/Laws/Framebuffer.lean ====
section
/-! SUPPORT. Laws of the framebuffer: reading a cell after a write, and the draw loop in closed form. -/

namespace Sys2Proof.Machine

theorem Framebuffer.cell_blank (c r : Nat) : Framebuffer.blank.cell c r = false := by
  simp [Framebuffer.cell, Framebuffer.blank]

/-- Reading a cell of the grid after writing one. -/
theorem Framebuffer.cell_setCell (fb : Framebuffer) (c r c' r' : Nat) (b : Bool) (hc : c < 64) (hr : r < 32) :
    (fb.setCell c r b).cell c' r' = if c' = c ∧ r' = r then b else fb.cell c' r' := by
  have hset : fb.setCell c r b = fb.set r ((fb[r]'hr).set c b hc) hr := dif_pos ⟨hr, hc⟩
  rw [hset]
  unfold Framebuffer.cell
  by_cases hin : r' < 32 ∧ c' < 64
  · simp only [dif_pos hin, Vector.getElem_set]
    by_cases hrr : r = r'
    · subst hrr
      by_cases hcc : c = c'
      · subst hcc; simp
      · simp [hcc, Ne.symm hcc]
    · simp [hrr, Ne.symm hrr]
  · simp only [dif_neg hin]
    have : ¬ (c' = c ∧ r' = r) := by omega
    simp [this]

/-- Two framebuffers that agree on every cell of the grid are equal. -/
theorem Framebuffer.ext_cell {f g : Framebuffer} (h : ∀ c r, c < 64 → r < 32 → f.cell c r = g.cell c r) :
    f = g := by
  apply Vector.ext
  intro r hr
  apply Vector.ext
  intro c hc
  have := h c r hc hr
  simpa [Framebuffer.cell, hr, hc] using this

/-- The draw loop over cells of the grid without repeats, from any collision so far: exactly those cells are
inverted, and the collision is whether one of them was 1. -/
theorem foldl_toggle (ps : List (Nat × Nat)) (hn : ps.Nodup) (hg : ∀ p ∈ ps, p.1 < 64 ∧ p.2 < 32)
    (fb : Framebuffer) (b : Bool) :
    (∀ c r, (ps.foldl toggleCell (fb, b)).1.cell c r = (fb.cell c r ^^ decide ((c, r) ∈ ps))) ∧
    (ps.foldl toggleCell (fb, b)).2 = (b || ps.any (fun p => fb.cell p.1 p.2)) := by
  induction ps generalizing fb b with
  | nil => simp
  | cons p ps ih =>
    obtain ⟨hp, hn⟩ := List.nodup_cons.1 hn
    have hin := hg p List.mem_cons_self
    have hrest : ∀ q ∈ ps, q.1 < 64 ∧ q.2 < 32 := fun q hq => hg q (List.mem_cons_of_mem _ hq)
    obtain ⟨h1, h2⟩ := ih hn hrest (fb.setCell p.1 p.2 (!fb.cell p.1 p.2)) (b || fb.cell p.1 p.2)
    refine ⟨?_, ?_⟩
    · intro c r
      rw [List.foldl_cons, toggleCell, h1, Framebuffer.cell_setCell _ _ _ _ _ _ hin.1 hin.2]
      by_cases hcr : (c, r) = p
      · subst hcr; simp [hp]
      · have : ¬ (c = p.1 ∧ r = p.2) := fun hh => hcr (Prod.ext hh.1 hh.2)
        simp [this, hcr]
    · rw [List.foldl_cons, toggleCell, h2, List.any_cons, Bool.or_assoc]
      have hany : (ps.any fun q => (fb.setCell p.1 p.2 !fb.cell p.1 p.2).cell q.1 q.2) =
          ps.any fun q => fb.cell q.1 q.2 := by
        rw [Bool.eq_iff_iff]
        simp only [List.any_eq_true]
        refine exists_congr fun q => and_congr_right fun hq => ?_
        rw [Framebuffer.cell_setCell _ _ _ _ _ _ hin.1 hin.2]
        have : ¬ (q.1 = p.1 ∧ q.2 = p.2) := fun hh => hp (by rwa [← (Prod.ext hh.1 hh.2 : q = p)])
        simp [this]
      rw [hany]

/-- The draw in closed form (45_display.md R182, R185). -/
theorem Framebuffer.draw_spec (fb : Framebuffer) (ps : List (Nat × Nat)) (hn : ps.Nodup)
    (hg : ∀ p ∈ ps, p.1 < 64 ∧ p.2 < 32) :
    (∀ c r, (fb.draw ps).1.cell c r = (fb.cell c r ^^ decide ((c, r) ∈ ps))) ∧
    (fb.draw ps).2 = ps.any (fun p => fb.cell p.1 p.2) := by
  simpa [Framebuffer.draw] using foldl_toggle ps hn hg fb false

theorem mem_rowCells (cx r : Nat) (row : Byte) (p : Nat × Nat) :
    p ∈ rowCells cx r row ↔ ∃ c, c < 8 ∧ row.getLsbD (7 - c) = true ∧ p = (cx + c, r) := by
  simp only [rowCells, List.mem_map, List.mem_filter, List.mem_range]
  constructor
  · rintro ⟨c, ⟨hc, hb⟩, rfl⟩; exact ⟨c, hc, hb, rfl⟩
  · rintro ⟨c, hc, hb, rfl⟩; exact ⟨c, ⟨hc, hb⟩, rfl⟩

/-- The cells of a sprite: row `j`, column `c`, where bit `7 - c` of byte `j` is set (45_display.md R182,
R183). -/
theorem mem_spriteCells (cx cy : Nat) (rows : List Byte) (p : Nat × Nat) :
    p ∈ spriteCells cx cy rows ↔
      ∃ j c, ∃ h : j < rows.length, c < 8 ∧ rows[j].getLsbD (7 - c) = true ∧ p = (cx + c, cy + j) := by
  induction rows generalizing cy with
  | nil => simp [spriteCells]
  | cons row rows ih =>
    simp only [spriteCells, List.mem_append, mem_rowCells, ih]
    constructor
    · rintro (⟨c, hc, hb, rfl⟩ | ⟨j, c, h, hc, hb, rfl⟩)
      · exact ⟨0, c, by simp, hc, by simpa using hb, rfl⟩
      · exact ⟨j + 1, c, by simpa using h, hc, by simpa using hb, by simp; omega⟩
    · rintro ⟨j, c, h, hc, hb, rfl⟩
      cases j with
      | zero => exact .inl ⟨c, hc, by simpa using hb, rfl⟩
      | succ j =>
        exact .inr ⟨j, c, by simpa using h, hc, by simpa using hb, by simp; omega⟩

theorem rowCells_nodup (cx r : Nat) (row : Byte) : (rowCells cx r row).Nodup := by
  apply List.Nodup.map
  · intro a b hab; simpa using hab
  · exact List.nodup_range.filter _

theorem spriteCells_nodup (cx cy : Nat) (rows : List Byte) : (spriteCells cx cy rows).Nodup := by
  induction rows generalizing cy with
  | nil => simp [spriteCells]
  | cons row rows ih =>
    simp only [spriteCells]
    refine List.Nodup.append (rowCells_nodup _ _ _) (ih _) ?_
    intro p hp hq
    obtain ⟨c, -, -, rfl⟩ := (mem_rowCells _ _ _ _).1 hp
    obtain ⟨j, d, -, -, -, heq⟩ := (mem_spriteCells _ _ _ _).1 hq
    simp only [Prod.mk.injEq] at heq
    omega

theorem pixelFault_eq_none (p : Nat × Nat) : pixelFault p = none ↔ p.1 < 64 ∧ p.2 < 32 := by
  simp [pixelFault]

@[simp] theorem State.spriteRows_length (s : State) (n : Nat) : (s.spriteRows n).length = n := by
  simp [State.spriteRows, State.effectiveAddresses]

theorem State.spriteRows_getElem (s : State) (n j : Nat) (h : j < (s.spriteRows n).length) :
    (s.spriteRows n)[j] = s.peek (s.i.toNat + j) := by
  simp [State.spriteRows, State.effectiveAddresses]

/-- The cells a draw toggles, in terms of the sprite bytes in memory (45_display.md R182). -/
theorem State.mem_drawCells (s : State) (x y : RegIx) (n : Nat) (p : Nat × Nat) :
    p ∈ s.drawCells x y n ↔ ∃ j c, j < n ∧ c < 8 ∧ (s.peek (s.i.toNat + j)).getLsbD (7 - c) = true ∧
      p = ((s.readV x).toNat + c, (s.readV y).toNat + j) := by
  rw [State.drawCells, mem_spriteCells]
  constructor
  · rintro ⟨j, c, h, hc, hb, rfl⟩
    exact ⟨j, c, by simpa using h, hc, by simpa [State.spriteRows_getElem] using hb, rfl⟩
  · rintro ⟨j, c, h, hc, hb, rfl⟩
    exact ⟨j, c, by simpa using h, hc, by simpa [State.spriteRows_getElem] using hb, rfl⟩

theorem State.drawFault_eq_none (s : State) (x y : RegIx) (n : Nat) :
    s.drawFault x y n = none ↔
      s.loadFault n = none ∧ ∀ p ∈ s.drawCells x y n, p.1 < 64 ∧ p.2 < 32 := by
  simp [State.drawFault, Option.or_eq_none_iff, firstFault_eq_none, pixelFault_eq_none]

end Sys2Proof.Machine
end

