-- ==== Sys2Proof/Laws/Cycle.lean ====
section
/-! SUPPORT. What a cycle can do, said once: the inversion lemmas of the fetch, the instruction cycle and the
step, and the store shared by Fx33 and Fx55. -/

namespace Sys2Proof.Machine

@[simp] theorem State.fontIntact_iff (s : State) :
    s.fontIntact ↔ ∀ a, a < 80 → s.peek a = resetByte s.cfg a := Iff.rfl

theorem State.fetch16_ok (s : State) (a : Nat) (h : a + 1 < 4096) :
    s.fetch16 a = .ok (wordOfBytes (s.peek a) (s.peek (a + 1))) := by
  simp only [State.fetch16, if_neg (Nat.not_le.2 h)]

theorem State.fetch16_error (s : State) (a : Nat) (h : 4096 ≤ a + 1) :
    s.fetch16 a = .error (.outOfBounds .fetch (BitVec.ofNat 18 a)) := by
  simp only [State.fetch16, if_pos h]

/-- `fetched` does not see the sampling of the ports. -/
@[simp] theorem State.beginCycle_fetched (s : State) : s.beginCycle.fetched = s.fetched := rfl

/-- A step, by the run state and what is fetched: the four things a cycle can be (40_cycle.md R99). -/
theorem step_cases (s : State) :
    (∃ f, s.mode = .halted f ∧ step s = .next s.beginCycle) ∨
    (s.mode = .awaitingKey ∧ step s = .next s.beginCycle.waitCycle) ∨
    (s.mode = .fetching ∧ 4096 ≤ s.pc.toNat + 1 ∧
      step s = .next (s.beginCycle.raise (.outOfBounds .fetch (BitVec.ofNat 18 s.pc.toNat)))) ∨
    (s.mode = .fetching ∧ s.pc.toNat + 1 < 4096 ∧
      decodeWord (wordOfBytes (s.peek s.pc.toNat) (s.peek (s.pc.toNat + 1))) = none ∧
      step s = .next (s.beginCycle.raise
        (.unrecognizedInstruction (wordOfBytes (s.peek s.pc.toNat) (s.peek (s.pc.toNat + 1)))))) ∨
    (∃ i, s.mode = .fetching ∧ s.pc.toNat + 1 < 4096 ∧
      decodeWord (wordOfBytes (s.peek s.pc.toNat) (s.peek (s.pc.toNat + 1))) = some i ∧
      step s = exec i s.beginCycle.timerStep) := by
  have hstep : step s = cycle s := rfl
  cases hm : s.mode with
  | halted f => exact .inl ⟨f, rfl, by rw [hstep, cycle, hm]⟩
  | awaitingKey => exact .inr (.inl ⟨rfl, by rw [hstep, cycle, hm]⟩)
  | fetching =>
    have hcyc : step s = instructionCycle s.beginCycle := by rw [hstep, cycle, hm]
    by_cases hpc : 4096 ≤ s.pc.toNat + 1
    · refine .inr (.inr (.inl ⟨rfl, hpc, ?_⟩))
      rw [hcyc, instructionCycle, State.beginCycle_pc, State.fetch16_error _ _ hpc]
    · have hlt : s.pc.toNat + 1 < 4096 := by omega
      have hi : instructionCycle s.beginCycle =
          match decodeWord (wordOfBytes (s.peek s.pc.toNat) (s.peek (s.pc.toNat + 1))) with
          | none => .next (s.beginCycle.raise
              (.unrecognizedInstruction (wordOfBytes (s.peek s.pc.toNat) (s.peek (s.pc.toNat + 1)))))
          | some i => exec i s.beginCycle.timerStep := by
        rw [instructionCycle, State.beginCycle_pc, State.fetch16_ok _ _ hlt]
        rfl
      cases hd : decodeWord (wordOfBytes (s.peek s.pc.toNat) (s.peek (s.pc.toNat + 1))) with
      | none => exact .inr (.inr (.inr (.inl ⟨rfl, hlt, rfl, by rw [hcyc, hi, hd]⟩)))
      | some i => exact .inr (.inr (.inr (.inr ⟨i, rfl, hlt, rfl, by rw [hcyc, hi, hd]⟩)))

/-- `fetched` names the instruction a step runs. -/
theorem State.fetched_eq_some (s : State) (i : Instr) :
    s.fetched = some i ↔ s.mode = .fetching ∧ s.pc.toNat + 1 < 4096 ∧
      decodeWord (wordOfBytes (s.peek s.pc.toNat) (s.peek (s.pc.toNat + 1))) = some i := by
  unfold State.fetched
  cases hm : s.mode with
  | halted f => simp
  | awaitingKey => simp
  | fetching =>
    by_cases hpc : 4096 ≤ s.pc.toNat + 1
    · simp; omega
    · simp only [if_neg hpc, true_and]
      exact ⟨fun h => ⟨by omega, h⟩, fun h => h.2⟩

/-! ## The store of Fx33 and Fx55 -/

/-- Everything a store at `I` can do: it takes a fatal error and writes nothing, or it stores the bytes and
advances (43_transfer.md R150). -/
theorem State.storeAtI_cases (s : State) (bs : List Byte) :
    (∃ f, s.storeFault bs.length = some f ∧ s.storeAtI bs = s.raise f) ∨
    (s.storeFault bs.length = none ∧ s.storeAtI bs = (s.pokeAll s.i.toNat bs).advance) := by
  unfold State.storeAtI
  cases h : s.storeFault bs.length with
  | none => exact .inr ⟨rfl, by simp⟩
  | some f => exact .inl ⟨f, rfl, by simp⟩

/-- Everything an instruction that checks first can do: a fatal error, or its effect. -/
theorem State.unlessFault_cases (s t : State) (o : Option FatalError) :
    (∃ f, o = some f ∧ s.unlessFault o t = s.raise f) ∨ (o = none ∧ s.unlessFault o t = t) := by
  cases o with
  | none => exact .inr ⟨rfl, rfl⟩
  | some f => exact .inl ⟨f, rfl, rfl⟩

/-- Everything RET can do (42_control.md R142). -/
theorem execRet_cases (s : State) :
    (s.sp = 0 ∧ execRet s = .next (s.raise (.outOfBounds .stackUnderflow 0))) ∨
    (s.sp ≠ 0 ∧ ∃ h : s.sp.toNat - 1 < 16, execRet s = .next (s.popTo (s.stack[s.sp.toNat - 1]'h))) ∨
    (16 < s.sp.toNat ∧ execRet s = .fault (.stackSlotAbsent (s.sp.toNat - 1))) := by
  by_cases h0 : s.sp = 0
  · exact .inl ⟨h0, by simp [execRet, h0]⟩
  · by_cases hlt : s.sp.toNat - 1 < 16
    · refine .inr (.inl ⟨h0, hlt, ?_⟩)
      rw [execRet, if_neg h0, State.returnSlot, Vector.getElem?_eq_getElem hlt]
    · refine .inr (.inr ⟨by omega, ?_⟩)
      have hn : s.stack[s.sp.toNat - 1]? = none := by
        simp only [Vector.getElem?_eq_none_iff]; omega
      rw [execRet, if_neg h0, State.returnSlot, hn]

/-! ## Construction -/

/-- Construction with an image that fits (70_reset_and_hazards.md R240–R242). -/
theorem construct_ok (cfg : Config) (image : List Byte) (h : image.length ≤ 3584) :
    construct cfg image = .ok ((State.resetWith cfg).pokeAll 512 image) := by
  simp only [construct, if_neg (Nat.not_lt.2 h)]

theorem State.resetWith_peek (cfg : Config) (a : Nat) : (State.resetWith cfg).peek a = resetByte cfg a := rfl

end Sys2Proof.Machine
end

