-- ==== Sys2Proof/Laws/Encoding.lean ====
section
/-! SUPPORT. Laws of the decoder: what a row's test says nibble by nibble, and what the fields of a word given
by its nibbles are. -/

namespace Sys2Proof

theorem append_inj_iff {v w : Nat} (a b : BitVec v) (c d : BitVec w) : a ++ c = b ++ d ↔ a = b ∧ c = d := by
  constructor
  · intro h
    constructor
    · have := congrArg (fun z => z.extractLsb' w v) h
      simpa [BitVec.extractLsb'_append_eq_of_le] using this
    · have := congrArg (fun z => z.extractLsb' 0 w) h
      simpa [BitVec.extractLsb'_append_eq_of_add_le] using this
  · rintro ⟨rfl, rfl⟩; rfl

/-- A word is its nibbles and its low byte. -/
theorem word_split (w : BitVec 16) : w = w.extractLsb' 12 4 ++ w.extractLsb' 8 4 ++ w.extractLsb' 0 8 := by
  apply BitVec.eq_of_getLsbD_eq
  intro i hi
  simp only [BitVec.getLsbD_append, BitVec.getLsbD_extractLsb']
  by_cases h1 : i < 8
  · simp [h1]
  · by_cases h2 : i - 8 < 4
    · simp [h1, h2]; congr 1; omega
    · simp [h1, h2]; rw [show 12 + (i - 8 - 4) = i by omega]; simp; omega

/-- A byte is its two nibbles. -/
theorem byte_split (k : BitVec 8) : k = k.extractLsb' 4 4 ++ k.extractLsb' 0 4 := by
  apply BitVec.eq_of_getLsbD_eq
  intro i hi
  simp only [BitVec.getLsbD_append, BitVec.getLsbD_extractLsb']
  by_cases h1 : i < 4
  · simp [h1]
  · simp [h1]; rw [show 4 + (i - 4) = i by omega]; simp; omega

theorem and_append_eq_iff (t a d x b e : BitVec 4) (k c f : BitVec 8) :
    (t ++ x ++ k) &&& (a ++ b ++ c) = d ++ e ++ f ↔ (t &&& a = d ∧ x &&& b = e) ∧ k &&& c = f := by
  simp only [BitVec.and_append, append_inj_iff]

/-- A row's test on a word given as nibble, nibble, byte. -/
theorem hits_append (r : OpcodeRow) (t x : BitVec 4) (k : BitVec 8) :
    r.hits (t ++ x ++ k) =
      ((t &&& r.mask.extractLsb' 12 4 == r.bits.extractLsb' 12 4) &&
       (x &&& r.mask.extractLsb' 8 4 == r.bits.extractLsb' 8 4) &&
       (k &&& r.mask.extractLsb' 0 8 == r.bits.extractLsb' 0 8)) := by
  unfold OpcodeRow.hits
  rw [Bool.eq_iff_iff]
  conv_lhs => rw [word_split r.mask, word_split r.bits]
  simp only [beq_iff_eq, Bool.and_eq_true]
  exact and_append_eq_iff _ _ _ _ _ _ _ _ _

/-! The fields of a word given by its parts. -/

theorem nibble_toNat (x : Fin 16) : (nibble x).toNat = x.val := by
  simp [nibble]

theorem fieldX_append (t : BitVec 4) (x : RegIx) (k : BitVec 8) : fieldX (t ++ nibble x ++ k) = x := by
  have : (t ++ nibble x ++ k : BitVec 16).extractLsb' 8 4 = nibble x := by
    rw [BitVec.extractLsb'_append_eq_of_le (by decide), BitVec.extractLsb'_append_eq_of_add_le (by decide)]
    simp
  exact Fin.ext ((congrArg BitVec.toNat this).trans (nibble_toNat x))

theorem fieldY_append (t x : BitVec 4) (a : Fin 16) (n : BitVec 4) :
    fieldY (t ++ x ++ (nibble a ++ n)) = a := by
  have : (t ++ x ++ (nibble a ++ n) : BitVec 16).extractLsb' 4 4 = nibble a := by
    rw [BitVec.extractLsb'_append_eq_of_add_le (by decide), BitVec.extractLsb'_append_eq_of_le (by decide)]
    simp
  exact Fin.ext ((congrArg BitVec.toNat this).trans (nibble_toNat a))

theorem fieldN_append (t x y : BitVec 4) (n : Fin 16) : fieldN (t ++ x ++ (y ++ nibble n)) = n := by
  have : (t ++ x ++ (y ++ nibble n) : BitVec 16).extractLsb' 0 4 = nibble n := by
    rw [BitVec.extractLsb'_append_eq_of_add_le (by decide), BitVec.extractLsb'_append_eq_of_add_le (by decide)]
    simp
  exact Fin.ext ((congrArg BitVec.toNat this).trans (nibble_toNat n))

theorem fieldKK_append (t x : BitVec 4) (k : BitVec 8) : fieldKK (t ++ x ++ k) = k := by
  rw [fieldKK, BitVec.extractLsb'_append_eq_of_add_le (by decide)]
  simp

theorem fieldNNN_append (t : BitVec 4) (nnn : Word) (h : nnn.toNat < 4096) :
    fieldNNN (t ++ nnn.setWidth 12) = nnn := by
  have : (t ++ nnn.setWidth 12 : BitVec 16).extractLsb' 0 12 = nnn.setWidth 12 := by
    rw [BitVec.extractLsb'_append_eq_of_add_le (by decide)]
    simp
  rw [fieldNNN, this]
  apply BitVec.eq_of_toNat_eq
  simp
  omega

theorem append_assoc4 (t x y n : BitVec 4) : (t ++ x ++ y ++ n : BitVec 16) = t ++ x ++ (y ++ n) := by
  apply BitVec.eq_of_getLsbD_eq
  intro i hi
  simp only [BitVec.getLsbD_append]
  by_cases h1 : i < 4
  · have : i < 8 := by omega
    simp [h1, this]
  · by_cases h2 : i - 4 < 4
    · have : i < 8 := by omega
      simp [h1, h2, this]
    · have : ¬ i < 8 := by omega
      have e : i - 4 - 4 = i - 8 := by omega
      simp [h1, h2, this, e]

end Sys2Proof
end

