-- ==== Sys2Proof/Laws/PerInstr.lean ====
section
/-! SUPPORT. Statements made per instruction: for each constructor of `Instr`, the word the encoder writes for a
well-formed instruction selects that instruction's row and its operands come back (30_encoding.md R73, R75,
R76). -/

namespace Sys2Proof.Laws.WordRoundTrip

/-- Decoding the encoder's word gives the instruction back. -/
def Statement (i : Instr) : Prop := i.wf = true → decodeWord (encode i) = some i

/-- Which row a word of the form nibble, nibble, byte selects, read nibble by nibble. -/
theorem decodeWord_parts (t x : BitVec 4) (k : BitVec 8) :
    decodeWord (t ++ x ++ k) = (opcodeMap.find? (fun r =>
      ((t &&& r.mask.extractLsb' 12 4 == r.bits.extractLsb' 12 4) &&
       (x &&& r.mask.extractLsb' 8 4 == r.bits.extractLsb' 8 4) &&
       (k &&& r.mask.extractLsb' 0 8 == r.bits.extractLsb' 0 8)))).map (·.make (t ++ x ++ k)) := by
  simp only [decodeWord, matchingRow, hits_append]

theorem low_nibble_mask (y n : BitVec 4) : (y ++ n : BitVec 8) &&& 15#8 = 0#4 ++ n := by
  have h : (y ++ n : BitVec 8) &&& (0#4 ++ 15#4) = (y &&& 0#4) ++ (n &&& 15#4) := BitVec.and_append
  have hn : n &&& 15#4 = n := BitVec.and_allOnes
  have hy : y &&& 0#4 = 0#4 := BitVec.and_zero
  rw [hn, hy] at h
  exact h

theorem append_address (t : BitVec 4) (z : BitVec 12) :
    (t ++ z : BitVec 16) = t ++ z.extractLsb' 8 4 ++ z.extractLsb' 0 8 := by
  apply BitVec.eq_of_getLsbD_eq
  intro i hi
  simp only [BitVec.getLsbD_append, BitVec.getLsbD_extractLsb']
  by_cases h1 : i < 8
  · have : i < 12 := by omega
    simp [h1, this]
  · by_cases h2 : i - 8 < 4
    · have : i < 12 := by omega
      have e : 8 + (i - 8) = i := by omega
      simp [h1, h2, this, e]
    · have : ¬ i < 12 := by omega
      have e : i - 8 - 4 = i - 12 := by omega
      simp [h1, h2, this, e]

theorem cls : Statement .cls := fun _ => by decide

theorem ret : Statement .ret := fun _ => by decide

theorem skp (x : RegIx) : Statement (.skp x) := by
  intro _
  show decodeWord (0xE#4 ++ nibble x ++ 0x9E#8) = _
  rw [decodeWord_parts]
  simp [opcodeMap, rowsFFFF, rowsF0FF, rowsF00F, rowsF000]
  exact fieldX_append _ _ _

theorem sknp (x : RegIx) : Statement (.sknp x) := by
  intro _
  show decodeWord (0xE#4 ++ nibble x ++ 0xA1#8) = _
  rw [decodeWord_parts]
  simp [opcodeMap, rowsFFFF, rowsF0FF, rowsF00F, rowsF000]
  exact fieldX_append _ _ _

theorem ldVxDt (x : RegIx) : Statement (.ldVxDt x) := by
  intro _
  show decodeWord (0xF#4 ++ nibble x ++ 0x07#8) = _
  rw [decodeWord_parts]
  simp [opcodeMap, rowsFFFF, rowsF0FF, rowsF00F, rowsF000]
  exact fieldX_append _ _ _

theorem ldVxK (x : RegIx) : Statement (.ldVxK x) := by
  intro _
  show decodeWord (0xF#4 ++ nibble x ++ 0x0A#8) = _
  rw [decodeWord_parts]
  simp [opcodeMap, rowsFFFF, rowsF0FF, rowsF00F, rowsF000]
  exact fieldX_append _ _ _

theorem ldDtVx (x : RegIx) : Statement (.ldDtVx x) := by
  intro _
  show decodeWord (0xF#4 ++ nibble x ++ 0x15#8) = _
  rw [decodeWord_parts]
  simp [opcodeMap, rowsFFFF, rowsF0FF, rowsF00F, rowsF000]
  exact fieldX_append _ _ _

theorem ldStVx (x : RegIx) : Statement (.ldStVx x) := by
  intro _
  show decodeWord (0xF#4 ++ nibble x ++ 0x18#8) = _
  rw [decodeWord_parts]
  simp [opcodeMap, rowsFFFF, rowsF0FF, rowsF00F, rowsF000]
  exact fieldX_append _ _ _

theorem addIVx (x : RegIx) : Statement (.addIVx x) := by
  intro _
  show decodeWord (0xF#4 ++ nibble x ++ 0x1E#8) = _
  rw [decodeWord_parts]
  simp [opcodeMap, rowsFFFF, rowsF0FF, rowsF00F, rowsF000]
  exact fieldX_append _ _ _

theorem ldFVx (x : RegIx) : Statement (.ldFVx x) := by
  intro _
  show decodeWord (0xF#4 ++ nibble x ++ 0x29#8) = _
  rw [decodeWord_parts]
  simp [opcodeMap, rowsFFFF, rowsF0FF, rowsF00F, rowsF000]
  exact fieldX_append _ _ _

theorem ldBVx (x : RegIx) : Statement (.ldBVx x) := by
  intro _
  show decodeWord (0xF#4 ++ nibble x ++ 0x33#8) = _
  rw [decodeWord_parts]
  simp [opcodeMap, rowsFFFF, rowsF0FF, rowsF00F, rowsF000]
  exact fieldX_append _ _ _

theorem ldMemVx (x : RegIx) : Statement (.ldMemVx x) := by
  intro _
  show decodeWord (0xF#4 ++ nibble x ++ 0x55#8) = _
  rw [decodeWord_parts]
  simp [opcodeMap, rowsFFFF, rowsF0FF, rowsF00F, rowsF000]
  exact fieldX_append _ _ _

theorem ldVxMem (x : RegIx) : Statement (.ldVxMem x) := by
  intro _
  show decodeWord (0xF#4 ++ nibble x ++ 0x65#8) = _
  rw [decodeWord_parts]
  simp [opcodeMap, rowsFFFF, rowsF0FF, rowsF00F, rowsF000]
  exact fieldX_append _ _ _

theorem seReg (x : RegIx) (y : RegIx) : Statement (.seReg x y) := by
  intro _
  show decodeWord (0x5#4 ++ nibble x ++ nibble y ++ 0x0#4 : BitVec 16) = _
  rw [append_assoc4, decodeWord_parts]
  simp [opcodeMap, rowsFFFF, rowsF0FF, rowsF00F, rowsF000, low_nibble_mask]
  exact ⟨fieldX_append _ _ _, fieldY_append _ _ _ _⟩

theorem ldReg (x : RegIx) (y : RegIx) : Statement (.ldReg x y) := by
  intro _
  show decodeWord (0x8#4 ++ nibble x ++ nibble y ++ 0x0#4 : BitVec 16) = _
  rw [append_assoc4, decodeWord_parts]
  simp [opcodeMap, rowsFFFF, rowsF0FF, rowsF00F, rowsF000, low_nibble_mask]
  exact ⟨fieldX_append _ _ _, fieldY_append _ _ _ _⟩

theorem orReg (x : RegIx) (y : RegIx) : Statement (.orReg x y) := by
  intro _
  show decodeWord (0x8#4 ++ nibble x ++ nibble y ++ 0x1#4 : BitVec 16) = _
  rw [append_assoc4, decodeWord_parts]
  simp [opcodeMap, rowsFFFF, rowsF0FF, rowsF00F, rowsF000, low_nibble_mask]
  exact ⟨fieldX_append _ _ _, fieldY_append _ _ _ _⟩

theorem andReg (x : RegIx) (y : RegIx) : Statement (.andReg x y) := by
  intro _
  show decodeWord (0x8#4 ++ nibble x ++ nibble y ++ 0x2#4 : BitVec 16) = _
  rw [append_assoc4, decodeWord_parts]
  simp [opcodeMap, rowsFFFF, rowsF0FF, rowsF00F, rowsF000, low_nibble_mask]
  exact ⟨fieldX_append _ _ _, fieldY_append _ _ _ _⟩

theorem xorReg (x : RegIx) (y : RegIx) : Statement (.xorReg x y) := by
  intro _
  show decodeWord (0x8#4 ++ nibble x ++ nibble y ++ 0x3#4 : BitVec 16) = _
  rw [append_assoc4, decodeWord_parts]
  simp [opcodeMap, rowsFFFF, rowsF0FF, rowsF00F, rowsF000, low_nibble_mask]
  exact ⟨fieldX_append _ _ _, fieldY_append _ _ _ _⟩

theorem addReg (x : RegIx) (y : RegIx) : Statement (.addReg x y) := by
  intro _
  show decodeWord (0x8#4 ++ nibble x ++ nibble y ++ 0x4#4 : BitVec 16) = _
  rw [append_assoc4, decodeWord_parts]
  simp [opcodeMap, rowsFFFF, rowsF0FF, rowsF00F, rowsF000, low_nibble_mask]
  exact ⟨fieldX_append _ _ _, fieldY_append _ _ _ _⟩

theorem sub (x : RegIx) (y : RegIx) : Statement (.sub x y) := by
  intro _
  show decodeWord (0x8#4 ++ nibble x ++ nibble y ++ 0x5#4 : BitVec 16) = _
  rw [append_assoc4, decodeWord_parts]
  simp [opcodeMap, rowsFFFF, rowsF0FF, rowsF00F, rowsF000, low_nibble_mask]
  exact ⟨fieldX_append _ _ _, fieldY_append _ _ _ _⟩

theorem shr (x : RegIx) : Statement (.shr x) := by
  intro _
  show decodeWord (0x8#4 ++ nibble x ++ nibble 0 ++ 0x6#4 : BitVec 16) = _
  rw [append_assoc4, decodeWord_parts]
  simp [opcodeMap, rowsFFFF, rowsF0FF, rowsF00F, rowsF000, low_nibble_mask]
  exact fieldX_append _ _ _

theorem subn (x : RegIx) (y : RegIx) : Statement (.subn x y) := by
  intro _
  show decodeWord (0x8#4 ++ nibble x ++ nibble y ++ 0x7#4 : BitVec 16) = _
  rw [append_assoc4, decodeWord_parts]
  simp [opcodeMap, rowsFFFF, rowsF0FF, rowsF00F, rowsF000, low_nibble_mask]
  exact ⟨fieldX_append _ _ _, fieldY_append _ _ _ _⟩

theorem shl (x : RegIx) : Statement (.shl x) := by
  intro _
  show decodeWord (0x8#4 ++ nibble x ++ nibble 0 ++ 0xE#4 : BitVec 16) = _
  rw [append_assoc4, decodeWord_parts]
  simp [opcodeMap, rowsFFFF, rowsF0FF, rowsF00F, rowsF000, low_nibble_mask]
  exact fieldX_append _ _ _

theorem sneReg (x : RegIx) (y : RegIx) : Statement (.sneReg x y) := by
  intro _
  show decodeWord (0x9#4 ++ nibble x ++ nibble y ++ 0x0#4 : BitVec 16) = _
  rw [append_assoc4, decodeWord_parts]
  simp [opcodeMap, rowsFFFF, rowsF0FF, rowsF00F, rowsF000, low_nibble_mask]
  exact ⟨fieldX_append _ _ _, fieldY_append _ _ _ _⟩

theorem jp (nnn : Word) : Statement (.jp nnn) := by
  intro h
  have hn : nnn.toNat < 4096 := by simpa [Instr.wf, addressWf] using h
  show decodeWord (0x1#4 ++ nnn.setWidth 12 : BitVec 16) = _
  rw [append_address, decodeWord_parts]
  simp [opcodeMap, rowsFFFF, rowsF0FF, rowsF00F, rowsF000]
  exact (congrArg fieldNNN (append_address _ _)).symm.trans (fieldNNN_append _ _ hn)

theorem call (nnn : Word) : Statement (.call nnn) := by
  intro h
  have hn : nnn.toNat < 4096 := by simpa [Instr.wf, addressWf] using h
  show decodeWord (0x2#4 ++ nnn.setWidth 12 : BitVec 16) = _
  rw [append_address, decodeWord_parts]
  simp [opcodeMap, rowsFFFF, rowsF0FF, rowsF00F, rowsF000]
  exact (congrArg fieldNNN (append_address _ _)).symm.trans (fieldNNN_append _ _ hn)

theorem seImm (x : RegIx) (kk : Byte) : Statement (.seImm x kk) := by
  intro _
  show decodeWord (0x3#4 ++ nibble x ++ kk) = _
  rw [decodeWord_parts]
  simp [opcodeMap, rowsFFFF, rowsF0FF, rowsF00F, rowsF000]
  exact ⟨fieldX_append _ _ _, fieldKK_append _ _ _⟩

theorem sneImm (x : RegIx) (kk : Byte) : Statement (.sneImm x kk) := by
  intro _
  show decodeWord (0x4#4 ++ nibble x ++ kk) = _
  rw [decodeWord_parts]
  simp [opcodeMap, rowsFFFF, rowsF0FF, rowsF00F, rowsF000]
  exact ⟨fieldX_append _ _ _, fieldKK_append _ _ _⟩

theorem ldImm (x : RegIx) (kk : Byte) : Statement (.ldImm x kk) := by
  intro _
  show decodeWord (0x6#4 ++ nibble x ++ kk) = _
  rw [decodeWord_parts]
  simp [opcodeMap, rowsFFFF, rowsF0FF, rowsF00F, rowsF000]
  exact ⟨fieldX_append _ _ _, fieldKK_append _ _ _⟩

theorem addImm (x : RegIx) (kk : Byte) : Statement (.addImm x kk) := by
  intro _
  show decodeWord (0x7#4 ++ nibble x ++ kk) = _
  rw [decodeWord_parts]
  simp [opcodeMap, rowsFFFF, rowsF0FF, rowsF00F, rowsF000]
  exact ⟨fieldX_append _ _ _, fieldKK_append _ _ _⟩

theorem ldI (nnn : Word) : Statement (.ldI nnn) := by
  intro h
  have hn : nnn.toNat < 4096 := by simpa [Instr.wf, addressWf] using h
  show decodeWord (0xA#4 ++ nnn.setWidth 12 : BitVec 16) = _
  rw [append_address, decodeWord_parts]
  simp [opcodeMap, rowsFFFF, rowsF0FF, rowsF00F, rowsF000]
  exact (congrArg fieldNNN (append_address _ _)).symm.trans (fieldNNN_append _ _ hn)

theorem jpV0 (nnn : Word) : Statement (.jpV0 nnn) := by
  intro h
  have hn : nnn.toNat < 4096 := by simpa [Instr.wf, addressWf] using h
  show decodeWord (0xB#4 ++ nnn.setWidth 12 : BitVec 16) = _
  rw [append_address, decodeWord_parts]
  simp [opcodeMap, rowsFFFF, rowsF0FF, rowsF00F, rowsF000]
  exact (congrArg fieldNNN (append_address _ _)).symm.trans (fieldNNN_append _ _ hn)

theorem rnd (x : RegIx) (kk : Byte) : Statement (.rnd x kk) := by
  intro _
  show decodeWord (0xC#4 ++ nibble x ++ kk) = _
  rw [decodeWord_parts]
  simp [opcodeMap, rowsFFFF, rowsF0FF, rowsF00F, rowsF000]
  exact ⟨fieldX_append _ _ _, fieldKK_append _ _ _⟩

theorem drw (x : RegIx) (y : RegIx) (n : Fin 16) : Statement (.drw x y n) := by
  intro _
  show decodeWord (0xD#4 ++ nibble x ++ nibble y ++ nibble n : BitVec 16) = _
  rw [append_assoc4, decodeWord_parts]
  simp [opcodeMap, rowsFFFF, rowsF0FF, rowsF00F, rowsF000, low_nibble_mask]
  exact ⟨fieldX_append _ _ _, fieldY_append _ _ _ _, fieldN_append _ _ _ _⟩

end Sys2Proof.Laws.WordRoundTrip
end

