-- ==== Sys2Proof/Tests/Slice0.lean ====
section
/-! SUPPORT. The model's own tests: the well-formedness smoke test, words written out from the spec's
encodings, one or two single steps per instruction with the results of 95_test_vectors.md, and a witness for the
hypotheses of every obligation. -/

namespace Sys2Proof.Tests

open Sys2Proof Sys2Proof.Machine

/-! ## Helpers -/

/-- The outcome is a next state of which `p` holds. -/
def nextHas (o : Host.Outcome State Fault Refusal) (p : State → Bool) : Bool :=
  match o with
  | .next t    => p t
  | .fault _   => false
  | .refused _ => false

/-- A sample of the ports with no key pressed and the random byte 0. -/
def noKey : Inputs := { keyValid := false, keyCode := 0, rnd := 0 }

/-- A sample of the ports with key `c` pressed and the random byte 0. -/
def pressed (c : BitVec 4) : Inputs := { keyValid := true, keyCode := c, rnd := 0 }

/-- The start state of 95_test_vectors.md: reset, with the coming cycle's sample settled. -/
def quiet : State := { State.reset with pending := [noKey] }

/-- The start state with key `c` pressed in the coming cycle. -/
def keyed (c : BitVec 4) : State := { State.reset with pending := [pressed c] }

/-- The state's parameters with the ALU writing VF first. -/
def resultLast (s : State) : State := { s with cfg := { s.cfg with vfDestOrder := .resultLast } }

/-- The state's parameters with OR, AND and XOR zeroing VF. -/
def logicZero (s : State) : State := { s with cfg := { s.cfg with logicOpVf := .zero } }

/-- The state's parameters with font writes allowed. -/
def fontAllow (s : State) : State := { s with cfg := { s.cfg with fontWritePolicy := .allow } }

/-- Runs the word `w` for one cycle from `s`: is there a next state of which `p` holds? -/
def runs (s : State) (w : Nat) (p : State → Bool) : Bool := nextHas (step (s.withFetchWord 16 w)) p

/-- The fault codes and value of the output ports. -/
def haltedWith (t : State) (kind : BitVec 4) (value : BitVec 18) : Bool :=
  t.halted && t.faultKind == kind && t.faultValue == value

/-! ## Well-formedness smoke test (30_encoding.md R73) -/

theorem test_wf_refuses_wide_jp : (Instr.jp 0x1000).wf = false := by decide
theorem test_wf_refuses_wide_call : (Instr.call 0x1000).wf = false := by decide
theorem test_wf_refuses_wide_ldI : (Instr.ldI 0xFFFF).wf = false := by decide
theorem test_wf_refuses_wide_jpV0 : (Instr.jpV0 0x1000).wf = false := by decide
theorem test_wf_accepts_the_last_address : (Instr.jp 0x0FFF).wf = true := by decide

/-! ## Decoding: words written out bit by bit from the patterns of 30_encoding.md R76 -/

theorem test_decode_mask_FFFF :
    decodeWord 0b0000_0000_1110_0000 = some .cls ∧ decodeWord 0b0000_0000_1110_1110 = some .ret := by decide

theorem test_decode_keys :
    decodeWord 0b1110_0001_1001_1110 = some (.skp 1) ∧ decodeWord 0b1110_1111_1010_0001 = some (.sknp 15) ∧
    decodeWord 0b1111_0101_0000_1010 = some (.ldVxK 5) := by decide

theorem test_decode_timers :
    decodeWord 0b1111_0100_0000_0111 = some (.ldVxDt 4) ∧ decodeWord 0b1111_0011_0001_0101 = some (.ldDtVx 3) ∧
    decodeWord 0b1111_0010_0001_1000 = some (.ldStVx 2) := by decide

theorem test_decode_transfer :
    decodeWord 0b1111_0010_0001_1110 = some (.addIVx 2) ∧ decodeWord 0b1111_0001_0010_1001 = some (.ldFVx 1) ∧
    decodeWord 0b1111_0011_0011_0011 = some (.ldBVx 3) ∧ decodeWord 0b1111_1111_0101_0101 = some (.ldMemVx 15) ∧
    decodeWord 0b1111_0010_0110_0101 = some (.ldVxMem 2) ∧
    decodeWord 0b1010_0001_0010_0011 = some (.ldI 0x123) ∧
    decodeWord 0b0110_0000_0000_0101 = some (.ldImm 0 5) := by decide

theorem test_decode_skips :
    decodeWord 0b0101_1010_1011_0000 = some (.seReg 10 11) ∧
    decodeWord 0b1001_1010_1011_0000 = some (.sneReg 10 11) ∧
    decodeWord 0b0011_1010_0101_1011 = some (.seImm 10 0x5B) ∧
    decodeWord 0b0100_1010_0101_1011 = some (.sneImm 10 0x5B) := by decide

theorem test_decode_alu_low :
    decodeWord 0b1000_1010_1011_0000 = some (.ldReg 10 11) ∧
    decodeWord 0b1000_1010_1011_0001 = some (.orReg 10 11) ∧
    decodeWord 0b1000_1010_1011_0010 = some (.andReg 10 11) ∧
    decodeWord 0b1000_1010_1011_0011 = some (.xorReg 10 11) ∧
    decodeWord 0b1000_1010_1011_0100 = some (.addReg 10 11) := by decide

theorem test_decode_alu_high :
    decodeWord 0b1000_1010_1011_0101 = some (.sub 10 11) ∧ decodeWord 0b1000_1010_1011_0110 = some (.shr 10) ∧
    decodeWord 0b1000_1010_1011_0111 = some (.subn 10 11) ∧ decodeWord 0b1000_1010_1011_1110 = some (.shl 10) ∧
    decodeWord 0b0111_0000_0000_0011 = some (.addImm 0 3) ∧
    decodeWord 0b1100_0011_0000_1111 = some (.rnd 3 0x0F) := by decide

theorem test_decode_control :
    decodeWord 0b0001_1010_1011_1100 = some (.jp 0xABC) ∧ decodeWord 0b0010_1010_1011_1100 = some (.call 0xABC) ∧
    decodeWord 0b1011_0001_0010_0011 = some (.jpV0 0x123) := by decide

theorem test_decode_display :
    decodeWord 0b1101_0001_0010_0101 = some (.drw 1 2 5) ∧
    decodeWord 0b1101_0001_0010_0000 = some (.drw 1 2 0) := by decide

/-- One illegal word of each class of 30_encoding.md R77, and the neighbours 95_test_vectors.md §2.2 lists. -/
theorem test_decode_refuses_illegal_words :
    decodeWord 0x0000 = none ∧ decodeWord 0x0123 = none ∧ decodeWord 0x5AB1 = none ∧ decodeWord 0x8AB8 = none ∧
    decodeWord 0x8ABF = none ∧ decodeWord 0x9AB1 = none ∧ decodeWord 0xE19F = none ∧ decodeWord 0xF156 = none ∧
    decodeWord 0xFFFF = none := by decide

theorem test_decode_names_its_refusals :
    decode [0x01, 0x23, 0x60] = .error (.unrecognized 0x0123) ∧ decode [0x60] = .error .truncated := by
  constructor <;> rfl

theorem test_decodeTableWord : decodeTableWord 16 0x8014 = some (.addReg 0 1) := by decide

/-! ## Single steps; the results are those of 95_test_vectors.md §3 to §10, under the vector's number -/

theorem test_ldReg_A11 : runs (quiet.writeV 3 0x42) 0x8430 (fun t => t.readV 4 == 0x42) = true := by decide

theorem test_orReg_A7 : runs (((quiet.writeV 1 0x0F).writeV 2 0xF0).writeV 15 0x55) 0x8121
    (fun t => t.readV 1 == 0xFF && t.readV 15 == 0x55) = true := by decide

theorem test_orReg_A7_zero : runs (logicZero (((quiet.writeV 1 0x0F).writeV 2 0xF0).writeV 15 0x55)) 0x8121
    (fun t => t.readV 1 == 0xFF && t.readV 15 == 0) = true := by decide

theorem test_andReg_A8 : runs (((quiet.writeV 1 0x3C).writeV 2 0x0F).writeV 15 0x55) 0x8122
    (fun t => t.readV 1 == 0x0C && t.readV 15 == 0x55) = true := by decide

theorem test_xorReg_A9 : runs (((quiet.writeV 1 0xFF).writeV 2 0x0F).writeV 15 0x55) 0x8123
    (fun t => t.readV 1 == 0xF0 && t.readV 15 == 0x55) = true := by decide

theorem test_addReg_A1 : runs ((quiet.writeV 0 0xFF).writeV 1 2) 0x8014
    (fun t => t.readV 0 == 1 && t.readV 15 == 1 && t.pc == 0x202) = true := by decide

theorem test_addReg_A5_result_last : runs (resultLast ((quiet.writeV 15 0xFF).writeV 0 1)) 0x8F04
    (fun t => t.readV 15 == 0) = true := by decide

theorem test_sub_B2_equal : runs ((quiet.writeV 0 3).writeV 1 3) 0x8015
    (fun t => t.readV 0 == 0 && t.readV 15 == 0) = true := by decide

theorem test_sub_B3_borrow : runs ((quiet.writeV 0 3).writeV 1 5) 0x8015
    (fun t => t.readV 0 == 0xFE && t.readV 15 == 0) = true := by decide

theorem test_subn_B6 : runs ((quiet.writeV 0 3).writeV 1 5) 0x8017
    (fun t => t.readV 0 == 2 && t.readV 15 == 1) = true := by decide

theorem test_shr_H4_ignores_y : runs ((quiet.writeV 1 5).writeV 15 0x77) 0x81F6
    (fun t => t.readV 1 == 2 && t.readV 15 == 1) = true := by decide

theorem test_shl_H6 : runs (quiet.writeV 2 0x81) 0x820E
    (fun t => t.readV 2 == 2 && t.readV 15 == 1) = true := by decide

theorem test_addImm_I2_no_flag : runs ((quiet.writeV 0 1).writeV 15 0x33) 0x70FF
    (fun t => t.readV 0 == 0 && t.readV 15 == 0x33) = true := by decide

theorem test_rnd_I7 : runs { quiet with pending := [{ noKey with rnd := 0x5A }] } 0xC3F0
    (fun t => t.readV 3 == 0x50) = true := by decide

theorem test_call_J2 : runs { quiet with sp := 15 } 0x2300
    (fun t => t.stack[15] == 0x202 && t.sp == 16 && t.pc == 0x300) = true := by decide

theorem test_call_J3_overflow : runs { quiet with sp := 16 } 0x2300
    (fun t => haltedWith t 6 16 && t.sp == 16 && t.pc == 0x200 && t.stack == quiet.stack) = true := by decide

theorem test_ret_J4 : runs { quiet with sp := 1, stack := quiet.stack.set 0 0x202 } 0x00EE
    (fun t => t.sp == 0 && t.pc == 0x202 && t.stack[0] == 0x202) = true := by decide

theorem test_ret_J5_underflow : runs quiet 0x00EE (fun t => haltedWith t 7 0 && t.pc == 0x200) = true := by decide

theorem test_jp_J8_odd : runs quiet 0x1201 (fun t => t.pc == 0x201) = true := by decide

theorem test_jpV0_J11 : runs (quiet.writeV 0 0xFF) 0xBFFF (fun t => t.pc == 0x10FE) = true := by decide

theorem test_ldI_T1 : runs quiet 0xA300 (fun t => t.i == 0x300) = true := by decide

theorem test_ldImm_T2 : runs quiet 0x6F07 (fun t => t.readV 15 == 7) = true := by decide

theorem test_addIVx_T5 : runs { (quiet.writeV 2 1).writeV 15 0x44 with i := 0xFFFF } 0xF21E
    (fun t => t.i == 0 && t.readV 15 == 0x44) = true := by decide

theorem test_ldFVx_T9 : runs (quiet.writeV 0 0xFF) 0xF029 (fun t => t.i == 1275) = true := by decide

theorem test_ldBVx_T10 : runs { quiet.writeV 3 157 with i := 0x300 } 0xF333
    (fun t => t.peek 0x300 == 1 && t.peek 0x301 == 5 && t.peek 0x302 == 7 && t.i == 0x300) = true := by decide

theorem test_ldBVx_T14_font : runs { quiet.writeV 3 255 with i := 78 } 0xF333
    (fun t => haltedWith t 5 78 && t.peek 78 == 0x80 && t.peek 79 == 0x80) = true := by decide

theorem test_ldMemVx_T16 : runs { ((quiet.writeV 0 0x11).writeV 1 0x22).writeV 2 0x33 with i := 0x300 } 0xF155
    (fun t => t.peek 0x300 == 0x11 && t.peek 0x301 == 0x22 && t.peek 0x302 == 0 && t.i == 0x300) = true := by
  decide

theorem test_ldMemVx_T19_fault : runs { quiet.writeV 0 9 with i := 0xFF1 } 0xFF55
    (fun t => haltedWith t 4 0x1000 && t.peek 0xFF1 == 0) = true := by decide

theorem test_ldVxMem_T20 : runs { (quiet.writeV 3 0x99).pokeAll 0x300 [1, 5, 7] with i := 0x300 } 0xF265
    (fun t => t.readV 0 == 1 && t.readV 1 == 5 && t.readV 2 == 7 && t.readV 3 == 0x99) = true := by decide

theorem test_ldVxMem_T22_fault : runs { quiet.writeV 0 0x66 with i := 0xFF1 } 0xFF65
    (fun t => haltedWith t 3 0x1000 && t.readV 0 == 0x66) = true := by decide

theorem test_ldVxDt_M1 : runs { quiet with dt := 4 } 0xF407
    (fun t => t.dt == 3 && t.readV 4 == 3) = true := by decide

theorem test_ldDtVx_M5 : runs { quiet.writeV 3 9 with dt := 5 } 0xF315 (fun t => t.dt == 9) = true := by decide

theorem test_ldStVx_M8 : runs { quiet.writeV 2 7 with st := 1 } 0xF218
    (fun t => t.st == 7 && t.toneStop) = true := by decide

theorem test_ldStVx_M9 : runs { quiet.writeV 2 0 with st := 5 } 0xF218
    (fun t => t.st == 0 && !t.toneStop) = true := by decide

theorem test_illegal_M12_timers_kept : runs { quiet with dt := 3, st := 1 } 0xFFFF
    (fun t => haltedWith t 1 0xFFFF && t.dt == 3 && t.st == 1 && !t.toneStop) = true := by decide

theorem test_ret_M13_timers_stepped : runs { quiet with dt := 3, st := 1 } 0x00EE
    (fun t => haltedWith t 7 0 && t.dt == 2 && t.st == 0 && t.toneStop) = true := by decide

theorem test_cls_D12 : runs { quiet.writeV 15 1 with fb := quiet.fb.setCell 3 4 true } 0x00E0
    (fun t => !t.fb.cell 3 4 && t.readV 15 == 1 && t.fbChanged) = true := by decide

theorem test_drw_D3_collision : runs { quiet with i := 5, fb := quiet.fb.setCell 2 0 true } 0xD015
    (fun t => !t.fb.cell 2 0 && t.fb.cell 1 1 && t.fb.cell 3 4 && !t.fb.cell 0 0 && t.readV 15 == 1) = true := by
  decide

theorem test_drw_D7_fault : runs (quiet.writeV 1 28) 0xD015
    (fun t => haltedWith t 8 0x20 && !t.fb.cell 0 28 && !t.fbChanged) = true := by decide

theorem test_skp_K1 : runs ((keyed 10).writeV 1 10) 0xE19E (fun t => t.pc == 0x204) = true := by decide

theorem test_skp_K4_index : runs ((keyed 0).writeV 1 16) 0xE19E
    (fun t => haltedWith t 9 16 && t.pc == 0x200) = true := by decide

theorem test_sknp_K6 : runs ((keyed 10).writeV 1 10) 0xE1A1 (fun t => t.pc == 0x202) = true := by decide

theorem test_sknp_K5 : runs (quiet.writeV 1 10) 0xE1A1 (fun t => t.pc == 0x204) = true := by decide

theorem test_ldVxK_K9 : runs (keyed 10) 0xF50A
    (fun t => t.waiting && t.target == 5 && t.pc == 0x202 && t.readV 5 == 0) = true := by decide

theorem test_wait_K12 : nextHas (step { keyed 12 with mode := .awaitingKey, target := 5, pc := 0x202, dt := 5 })
    (fun t => t.mode == .fetching && t.readV 5 == 12 && t.pc == 0x202 && t.dt == 5) = true := by decide

theorem test_seImm_K20 : runs (quiet.writeV 0 5) 0x3005 (fun t => t.pc == 0x204) = true := by decide

theorem test_sneImm_K23 : runs (quiet.writeV 0 5) 0x4005 (fun t => t.pc == 0x202) = true := by decide

theorem test_seReg_K25 : runs ((quiet.writeV 1 7).writeV 2 8) 0x5120 (fun t => t.pc == 0x202) = true := by decide

theorem test_sneReg_K27 : runs ((quiet.writeV 1 7).writeV 2 8) 0x9120 (fun t => t.pc == 0x204) = true := by decide

theorem test_fetch_F1 : nextHas (step { quiet with pc := 4095, dt := 2 })
    (fun t => haltedWith t 2 0xFFF && t.dt == 2) = true := by decide

theorem test_fetch_F2 : runs { quiet with pc := 4094 } 0x6012
    (fun t => t.readV 0 == 0x12 && t.pc == 0x1000) = true := by decide

theorem test_halted_M15 : nextHas (step { quiet with dt := 5, mode := .halted (.unrecognizedInstruction 0xFFFF) })
    (fun t => haltedWith t 1 0xFFFF && t.dt == 5) = true := by decide

theorem test_construct_F13 : construct Config.default (List.replicate 3585 1) = .error (.tooLarge 3585) := by
  unfold construct
  rw [List.length_replicate]
  rfl

/-! ## Witnesses: a concrete state and operands that meet the hypotheses of each obligation -/

theorem witness_DecodeInvertsEncode :
    (Instr.jp 0x0FFF).wf = true ∧ (Instr.drw 15 15 15).wf = true ∧ (Instr.jp 0).wf = true := by decide

theorem witness_EncodeInvertsDecode :
    decodeWord 0x1FFF = some (.jp 0xFFF) ∧ (∀ x, Instr.jp 0xFFF ≠ .shr x ∧ Instr.jp 0xFFF ≠ .shl x) ∧
    decodeWord 0x8126 = some (.shr 1) ∧ decodeWord 0x8FFE = some (.shl 15) := by decide

theorem witness_EveryPriorityOrderDecodesAlike :
    (∃ r ∈ opcodeMap, r.hits 0x8014 = true) ∧ opcodeMap.reverse.Perm opcodeMap :=
  ⟨by decide, List.reverse_perm _⟩

theorem witness_DecoderDrivesItsPorts : ∃ r ∈ opcodeMap, (0x8014 : Word) &&& r.mask = r.bits := by decide

theorem witness_OperandsAreTheFieldsOfTheWord :
    decodeWord 0xD125 = some (.drw 1 2 5) ∧ decodeWord 0xFF65 = some (.ldVxMem 15) := by decide

/-- At reset with `6012` at the entry point, and at the last place a word fits. -/
theorem witness_StepRunsTheDecodedInstruction :
    (quiet.withFetchWord 16 0x6012).mode = .fetching ∧ (Instr.ldImm 0 0x12).wf = true ∧
    (quiet.withFetchWord 16 0x6012).pc.toNat + 1 < 4096 ∧
    decode [(quiet.withFetchWord 16 0x6012).peek 512, (quiet.withFetchWord 16 0x6012).peek 513] =
      .ok (.ldImm 0 0x12, []) ∧
    ({ quiet with pc := 4094 }.withFetchWord 16 0x6012).pc.toNat = 4094 ∧
    decode [({ quiet with pc := 4094 }.withFetchWord 16 0x6012).peek 4094,
      ({ quiet with pc := 4094 }.withFetchWord 16 0x6012).peek 4095] = .ok (.ldImm 0 0x12, []) :=
  ⟨by decide, by decide, by decide, rfl, by decide, rfl⟩

theorem witness_FetchOutsideMemoryHalts :
    ({ quiet with pc := 4095 } : State).mode = .fetching ∧ 4095 ≤ ({ quiet with pc := 4095 } : State).pc.toNat := by
  decide

theorem witness_IllegalWordHaltsBeforeTheTimers :
    quiet.mode = .fetching ∧ quiet.pc.toNat + 1 < 4096 ∧
    (0 : Word) = quiet.peek quiet.pc.toNat ++ quiet.peek (quiet.pc.toNat + 1) ∧ decodeWord 0 = none := by decide

theorem witness_WaitCycleLooksForAKey :
    ({ quiet with mode := .awaitingKey } : State).mode = .awaitingKey ∧
    ({ quiet with mode := .awaitingKey } : State).nextInputs.keyValid = false ∧
    ({ keyed 15 with mode := .awaitingKey } : State).nextInputs.keyValid = true := by decide

theorem witness_HaltedCoreStaysHalted :
    ({ quiet with mode := .halted (.unrecognizedInstruction 0) } : State).mode =
      .halted (.unrecognizedInstruction 0) := by decide

/-- A halted, two waiting and three fetching states that step, one for each clause. -/
theorem witness_RunStateFollowsTheWaitFsm :
    nextHas (step { quiet with mode := .halted (.unrecognizedInstruction 0) }) (fun _ => true) = true ∧
    nextHas (step { quiet with mode := .awaitingKey }) (fun _ => true) = true ∧
    nextHas (step { keyed 3 with mode := .awaitingKey }) (fun _ => true) = true ∧
    (nextHas (step (quiet.withFetchWord 16 0xFF0A)) (fun _ => true) = true ∧
      (quiet.withFetchWord 16 0xFF0A).fetched = some (.ldVxK 15)) ∧
    (nextHas (step (quiet.withFetchWord 16 0x6012)) (fun _ => true) = true ∧
      (quiet.withFetchWord 16 0x6012).fetched = some (.ldImm 0 0x12)) ∧
    (nextHas (step quiet) (fun _ => true) = true ∧ quiet.fetched = none) := by decide

theorem witness_TimersStepOncePerDecodedCycle :
    quiet.fetched = none ∧ (quiet.withFetchWord 16 0x6012).fetched = some (.ldImm 0 0x12) ∧
    (quiet.withFetchWord 16 0xF315).fetched = some (.ldDtVx 3) ∧
    (quiet.withFetchWord 16 0xF218).fetched = some (.ldStVx 2) ∧
    runs quiet 0x6012 (fun _ => true) = true ∧ runs quiet 0xF315 (fun _ => true) = true ∧
    runs quiet 0xF218 (fun _ => true) = true := by decide

theorem witness_ToneStopExactlyAtOneToZero :
    runs { quiet with st := 1 } 0x6000 (fun t => t.toneStop) = true ∧
    runs { quiet with st := 2 } 0x6000 (fun t => !t.toneStop) = true := by decide

theorem witness_OnlyClearAndDrawReportAChange :
    (quiet.withFetchWord 16 0x00E0).fetched = some .cls ∧ runs quiet 0x00E0 (fun t => t.fbChanged) = true ∧
    (quiet.withFetchWord 16 0xD010).fetched = some (.drw 0 1 0) ∧
    runs quiet 0xD010 (fun t => t.fbChanged) = true ∧
    runs quiet 0x6000 (fun t => !t.fbChanged) = true := by decide

/-- A call with a full stack: it meets the hypotheses of both statements about apply-phase errors. -/
theorem witness_InstructionsRaiseOnlyListedErrors :
    ({ quiet with sp := 16 } : State).mode = .fetching ∧
    nextHas (exec (.call 0x300) { quiet with sp := 16 })
      (fun t => t.mode == .halted (.outOfBounds .stackOverflow 16)) = true := by decide

theorem witness_FatalErrorWritesNothingElse :
    ({ quiet with i := 4095 } : State).mode = .fetching ∧
    nextHas (exec (.ldMemVx 1) { quiet with i := 4095 })
      (fun t => t.mode == .halted (.outOfBounds .memWrite 4096)) = true := by decide

theorem witness_StateIsWrittenOnlyByItsInstructions :
    nextHas (exec (.ldImm 0 5) quiet) (fun _ => true) = true ∧
    (∀ n, Instr.ldImm 0 5 ≠ .ldI n) ∧ (∀ n, Instr.ldImm 0 5 ≠ .call n) ∧ Instr.ldImm 0 5 ≠ .ret := by
  refine ⟨by decide, ?_, ?_, by decide⟩ <;> intro n h <;> cases h

theorem witness_RegistersChangeOnlyAsDestinations :
    nextHas (exec (.addReg 3 4) quiet) (fun _ => true) = true ∧ ¬ MayWriteV quiet.cfg (.addReg 3 4) 14 ∧
    ¬ MayWriteV quiet.cfg (.ldVxMem 14) 15 ∧ ¬ MayWriteV quiet.cfg (.orReg 3 4) vf := by
  refine ⟨by decide, ?_, ?_, ?_⟩ <;> unfold MayWriteV <;> decide

theorem witness_FontAndParametersNeverChange :
    nextHas (step quiet) (fun _ => true) = true ∧ quiet.cfg.fontWritePolicy = .fault ∧ 79 < 80 := by decide

theorem witness_InvariantHoldsAfterConstruction :
    ∃ t, construct Config.default (List.replicate 3584 0xFF) = .ok t := ⟨_, construct_ok _ _ (by rw [List.length_replicate])⟩

/-- A state of the invariant at its bounds, which is not the reset state, and which steps. -/
theorem witness_StepKeepsTheInvariant :
    ({ quiet with sp := 16, pc := 0x10FE, mem := [(4095, 1)] } : State).Inv ∧
    nextHas (step { quiet with sp := 16, pc := 0x10FE, mem := [(4095, 1)] }) (fun _ => true) = true :=
  ⟨⟨by decide, by decide, by decide, by decide, fun _ => by unfold State.fontIntact; decide⟩, by decide⟩

theorem witness_RunsOfAnyLengthComplete :
    ({ quiet with sp := 16, stack := Vector.replicate 16 4096 } : State).Inv :=
  ⟨by decide, by decide, by decide, by decide, fun _ => by unfold State.fontIntact; decide⟩

theorem witness_ImageIsCopiedToTheEntryPoint :
    (List.replicate 3584 (0xFF : Byte)).length ≤ 3584 ∧ 1 < ([0x60, 0x05] : List Byte).length :=
  ⟨by rw [List.length_replicate], by decide⟩

theorem witness_ResetKeepsNothingOfTheCore :
    3584 < (List.replicate 3585 (0xFF : Byte)).length ∧ (List.replicate 3584 (0xFF : Byte)).length ≤ 3584 := by
  rw [List.length_replicate, List.length_replicate]
  decide

theorem witness_MemoryReadsTheLatestWrite : 4095 < 4096 ∧ quiet.mem.wf quiet.cfg = true ∧ 4094 ≠ 4095 := by decide

theorem witness_FetchIsBigEndianAndCoherent : 4094 + 1 < 4096 ∧ 4096 ≤ 4095 + 1 := by decide

theorem witness_LoadImmediateWritesItsRegister : (0x6F07 : Word) &&& 0xF000 = 0x6000 := by decide

theorem witness_LogicOperationsByTheParameter :
    (logicZero quiet).cfg.logicOpVf = .zero ∧ (14 : RegIx) ≠ vf ∧ quiet.cfg.logicOpVf = .unchanged := by decide

/-- The three cases of an ALU instruction's result and flag. -/
theorem witness_AddSetsTheCarry :
    (14 : RegIx) ≠ vf ∧ (15 : RegIx) = vf ∧ quiet.cfg.vfDestOrder = .flagLast ∧
    (resultLast quiet).cfg.vfDestOrder = .resultLast := by decide

theorem witness_SubtractSetsTheStrictFlag :
    (0 : RegIx) ≠ vf ∧ (15 : RegIx) = vf ∧ quiet.cfg.vfDestOrder = .flagLast ∧
    (resultLast quiet).cfg.vfDestOrder = .resultLast := by decide

theorem witness_ShiftsSetTheBitShiftedOut :
    (0 : RegIx) ≠ vf ∧ (15 : RegIx) = vf ∧ quiet.cfg.vfDestOrder = .flagLast ∧
    (resultLast quiet).cfg.vfDestOrder = .resultLast := by decide

theorem witness_JumpSetsOnlyThePc :
    (0x1FFF : Word) &&& 0xF000 = 0x1000 ∧ quiet.mode = .fetching ∧ 4095 ≤ (0x0FFF : Word).toNat := by decide

theorem witness_JumpPlusAddsVZeroExactly : (Instr.jpV0 0x0FFF).wf = true := by decide

theorem witness_CallPushesTheReturnAddress :
    quiet.sp.toNat = (0 : Fin 16).val ∧ ({ quiet with sp := 15 } : State).sp.toNat = (15 : Fin 16).val ∧
    16 ≤ ({ quiet with sp := 16 } : State).sp.toNat := by decide

theorem witness_ReturnPopsIntoThePc :
    ({ quiet with sp := 1 } : State).sp.toNat = (0 : Fin 16).val + 1 ∧
    ({ quiet with sp := 16 } : State).sp.toNat = (15 : Fin 16).val + 1 ∧ quiet.sp = 0 ∧
    16 < ({ quiet with sp := 17 } : State).sp.toNat := by decide

/-- The state a call leaves is itself one a return may be taken in. -/
theorem witness_ReturnResumesAfterTheCall :
    ({ quiet with sp := 15 } : State).sp.toNat < 16 ∧
    ∃ t, exec (.call 0x300) { quiet with sp := 15 } = .next t ∧ t.stack = t.stack ∧ t.sp = t.sp :=
  ⟨by decide, _, rfl, rfl, rfl⟩

/-- Three writable bytes just above the font and at the end of memory, and over the font where it is allowed. -/
theorem witness_BcdStoresThreeDigits :
    (∀ k, k < 3 → WritableAt quiet.cfg (80 + k)) ∧ (∀ k, k < 3 → WritableAt quiet.cfg (4093 + k)) ∧
    (∀ k, k < 3 → WritableAt (fontAllow quiet).cfg (78 + k)) := by
  unfold WritableAt; decide

theorem witness_RegisterDumpStoresItsGroup :
    (∀ k, k ≤ (15 : RegIx).val → WritableAt quiet.cfg (0xFF0 + k)) ∧
    (∀ k, k ≤ (0 : RegIx).val → WritableAt quiet.cfg (80 + k)) := by
  unfold WritableAt; decide

theorem witness_RegisterLoadReadsItsGroup :
    ({ quiet with i := 0xFF0 } : State).i.toNat + (15 : RegIx).val < 4096 := by decide

theorem witness_DumpThenLoadRestoresTheRegisters :
    (∀ k, k ≤ (15 : RegIx).val → WritableAt quiet.cfg (0xFF0 + k)) ∧
    nextHas (exec (.ldMemVx 15) { quiet.writeV 0 9 with i := 0xFF0 })
      (fun t => t.i == 0xFF0 && t.cfg == quiet.cfg && t.mem == [(0xFF0, 9)]) = true := by
  refine ⟨?_, by decide⟩
  unfold WritableAt; decide

/-- `I = 4094` fails first at its third byte, `I = 78` at once, `I = 0xFF1` at its sixteenth byte. -/
theorem witness_TransferTakesTheFirstFailingAddress :
    ((∀ j, j < 2 → WritableAt quiet.cfg (4094 + j)) ∧ 4096 ≤ 4094 + 2) ∧
    ((∀ j, j < 0 → WritableAt quiet.cfg (78 + j)) ∧ 78 + 0 < 80 ∧ quiet.cfg.fontWritePolicy = .fault) ∧
    ((∀ j, j < 15 → WritableAt quiet.cfg (0xFF1 + j)) ∧ 15 ≤ (15 : RegIx).val ∧ 4096 ≤ 0xFF1 + 15) ∧
    (∀ j, j < 15 → 0xFF1 + j < 4096) := by
  unfold WritableAt; decide

theorem witness_KeySkipsFollowTheSample :
    ((quiet.writeV 1 15).readV 1).toNat ≤ 15 ∧ 15 < ((quiet.writeV 1 16).readV 1).toNat := by decide

/-- Glyph 0 in the bottom right corner, the last place it fits (vector D5). -/
def cornerDraw : State := (quiet.writeV 0 60).writeV 1 27

theorem witness_DrawInvertsExactlyTheSprite :
    cornerDraw.drawFits 0 1 5 ∧ ({ quiet with i := 0xFFFF } : State).drawFits 0 1 0 ∧
    cornerDraw.covered 0 1 5 60 27 := by
  have h : ∀ j, j < 5 → ∀ c, c < 8 → cornerDraw.spriteBit j c →
      (cornerDraw.readV 0).toNat + c < 64 ∧ (cornerDraw.readV 1).toNat + j < 32 := by
    unfold State.spriteBit; decide
  exact ⟨⟨.inr (by decide), fun j c hj hc => h j hj c hc⟩, ⟨.inl rfl, fun _ _ hj => absurd hj (Nat.not_lt_zero _)⟩,
    0, 0, by decide, by decide, by unfold State.spriteBit; decide, by decide, by decide⟩

/-- The two clauses: a sprite past the end of memory (vector D9), and glyph 0 one column too far (vector D6). -/
theorem witness_DrawTakesItsFirstFault :
    ((∀ j, j < 1 → ({ quiet with i := 0xFFF } : State).i.toNat + j < 4096) ∧
      4096 ≤ ({ quiet with i := 0xFFF } : State).i.toNat + 1) ∧
    ((quiet.writeV 0 61).spriteBit 0 3 ∧ 64 ≤ ((quiet.writeV 0 61).readV 0).toNat + 3 ∧
      ∀ c', c' < 3 → ((quiet.writeV 0 61).readV 0).toNat + c' < 64 ∧ ((quiet.writeV 0 61).readV 1).toNat < 32) := by
  unfold State.spriteBit; decide

theorem witness_DrawingTwiceRestoresTheFramebuffer :
    (0 : RegIx) ≠ vf ∧ (1 : RegIx) ≠ vf ∧ nextHas (exec (.drw 0 1 5) cornerDraw) (fun _ => true) = true := by decide

/-- A state outside halt, one with an illegal word, and one for each reason. -/
theorem witness_OutputPortsShowTheRunState :
    quiet.halted = false ∧
    ({ quiet with mode := .halted (.unrecognizedInstruction 0xFFFF) } : State).faultValue = 0xFFFF ∧
    [OobReason.fetch, .memRead, .memWrite, .fontWrite, .stackOverflow, .stackUnderflow, .pixel, .keyIndex].map
        (fun r => ({ quiet with mode := .halted (.outOfBounds r 255) } : State).faultKind) =
      [2, 3, 4, 5, 6, 7, 8, 9] := by decide

end Sys2Proof.Tests
end

section
/-! What an instruction and a step can do, said once (`exec_cases`, `step_cases`), and from it the frames and the
invariant of 10_state.md. -/

namespace Sys2Proof.Machine

/-! ## What the apply phase can do -/

/-- The next states the apply phase of `i` may leave, by the kind of write: one constructor per kind, with the
instructions that make it (40_cycle.md R95, R96). -/
inductive Effect (i : Instr) (s : State) : State → Prop
  | raise (f : FatalError) : Effect i s (s.raise f)
  | skip (p : Word) (hp : p = s.pc + 2 ∨ p = s.pc + 2 + 2) : Effect i s (s.writePc p)
  | jump (p : Word) (hp : i.wf = true → p.toNat ≤ 0x10FE) : Effect i s (s.writePc p)
  | call (nnn : Word) (hi : i = .call nnn) (hsp : s.sp.toNat < 16) :
      Effect i s ((s.push (s.pc + 2)).writePc nnn)
  | ret (hi : i = .ret) (hsp : s.sp ≠ 0) (k : Fin 16) : Effect i s (s.popTo s.stack[k.val])
  | regs (v : Vector Byte 16) (hv : ∀ z : RegIx, ¬ MayWriteV s.cfg i z → v[z.val] = s.v[z.val]) :
      Effect i s { s with v := v, pc := s.pc + 2 }
  | writeI (a : Word) (hi : (∃ n, i = .ldI n) ∨ (∃ x, i = .addIVx x) ∨ ∃ x, i = .ldFVx x) :
      Effect i s (s.writeI a).advance
  | writeDt (x : RegIx) (hi : i = .ldDtVx x) (b : Byte) : Effect i s (s.writeDt b).advance
  | writeSt (x : RegIx) (hi : i = .ldStVx x) (b : Byte) : Effect i s (s.writeSt b).advance
  | awaitKey (x : RegIx) (hi : i = .ldVxK x) : Effect i s (s.awaitKey x).advance
  | store (bs : List Byte) (hi : (∃ x, i = .ldBVx x) ∨ ∃ x, i = .ldMemVx x)
      (hpos : 0 < bs.length) (hok : s.storeFault bs.length = none) :
      Effect i s (s.pokeAll s.i.toNat bs).advance
  | clear (hi : i = .cls) (fb : Framebuffer) : Effect i s (s.writeFb fb).advance
  | draw (x y : RegIx) (n : Fin 16) (hi : i = .drw x y n) (fb : Framebuffer) (b : Byte) :
      Effect i s ((s.writeFb fb).writeV vf b).advance

section
variable {i : Instr} {s : State}

theorem Effect.unlessFault {o : Option FatalError} {t : State} (h : o = none → Effect i s t) :
    Effect i s (s.unlessFault o t) := by
  cases o with
  | none => exact h rfl
  | some f => exact .raise f

theorem Effect.skipWhen (c : Bool) : Effect i s (s.skipWhen c).advance := by
  cases c with
  | false => exact .skip _ (.inl rfl)
  | true => exact .skip _ (.inr rfl)

/-- A change of general registers alone, followed by the PC advance. -/
theorem Effect.ofRegs {t : State} (ht : t = { s with v := t.v })
    (hv : ∀ z, ¬ MayWriteV s.cfg i z → t.readV z = s.readV z) : Effect i s t.advance := by
  rw [ht]
  exact .regs t.v hv

theorem Effect.writeV (x : RegIx) (b : Byte) (hx : ∀ z, ¬ MayWriteV s.cfg i z → z ≠ x) :
    Effect i s (s.writeV x b).advance :=
  .ofRegs rfl fun z hz => by simp [hx z hz]

theorem Effect.writeLogic (x : RegIx) (r : Byte)
    (hx : ∀ z, ¬ MayWriteV s.cfg i z → ¬ (z = x ∨ (z = vf ∧ s.cfg.logicOpVf = .zero))) :
    Effect i s (s.writeLogic x r).advance :=
  .ofRegs (s.writeLogic_eq x r) fun z hz => by
    obtain ⟨hne, hvf⟩ := not_or.1 (hx z hz)
    rw [State.readV_writeLogic, if_neg hvf, if_neg hne]

theorem Effect.writeResultAndFlag (x : RegIx) (r f : Byte)
    (hx : ∀ z, ¬ MayWriteV s.cfg i z → ¬ (z = x ∨ z = vf)) :
    Effect i s (s.writeResultAndFlag x r f).advance :=
  .ofRegs (s.writeResultAndFlag_eq x r f) fun z hz => by
    obtain ⟨hne, hvf⟩ := not_or.1 (hx z hz)
    rw [State.readV_writeResultAndFlag, if_neg (fun h => hne h.1), if_neg hvf]

theorem Effect.loadRegs (x : RegIx) (hx : ∀ z, ¬ MayWriteV s.cfg i z → ¬ z ≤ x) :
    Effect i s (s.loadRegs x).advance :=
  .ofRegs (s.loadRegs_eq x) fun z hz => by rw [State.readV_loadRegs, if_neg (hx z hz)]

theorem Effect.storeAtI {bs : List Byte} (hpos : 0 < bs.length)
    (hi : (∃ x, i = .ldBVx x) ∨ ∃ x, i = .ldMemVx x) : Effect i s (s.storeAtI bs) :=
  .unlessFault fun hok => .store bs hi hpos hok

end

theorem addressWf_iff (nnn : Word) : addressWf nnn = true ↔ nnn.toNat < 4096 := by
  simp [addressWf]

/-- The sum of `JP V0` is exact and at most 4095 + 255 (40_cycle.md R101). -/
theorem jpV0_target_le (nnn : Word) (b : Byte) (h : nnn.toNat < 4096) :
    (nnn + b.setWidth 16).toNat ≤ 0x10FE := by
  have hb := b.isLt
  rw [BitVec.toNat_add, BitVec.toNat_setWidth]
  omega

/-- Everything the apply phase can do: a next state with one of the effects of `Effect`, except for RET with
`SP > 16`, which stops the model (log 6). -/
theorem exec_cases (i : Instr) (s : State) :
    (∃ t, exec i s = .next t ∧ Effect i s t) ∨
    (16 < s.sp.toNat ∧ exec i s = .fault (.stackSlotAbsent (s.sp.toNat - 1))) := by
  cases i with
  | ret =>
    rcases execRet_cases s with ⟨-, h⟩ | ⟨hsp, hk, h⟩ | ⟨hsp, h⟩
    · exact .inl ⟨_, h, .raise _⟩
    · exact .inl ⟨_, h, .ret rfl hsp ⟨_, hk⟩⟩
    · exact .inr ⟨hsp, h⟩
  | call nnn =>
    exact .inl ⟨_, rfl, .unlessFault fun hok => .call nnn rfl (s.callFault_eq_none.1 hok)⟩
  | jp nnn =>
    exact .inl ⟨_, rfl, .jump _ fun hwf => by have := (addressWf_iff nnn).1 hwf; omega⟩
  | jpV0 nnn =>
    exact .inl ⟨_, rfl, .jump _ fun hwf => jpV0_target_le nnn _ ((addressWf_iff nnn).1 hwf)⟩
  | skp | sknp => exact .inl ⟨_, rfl, .unlessFault fun _ => .skipWhen _⟩
  | seReg | sneReg | seImm | sneImm => exact .inl ⟨_, rfl, .skipWhen _⟩
  | ldVxDt | ldReg | ldImm | addImm | rnd => exact .inl ⟨_, rfl, .writeV _ _ fun _ => id⟩
  | orReg | andReg | xorReg => exact .inl ⟨_, rfl, .writeLogic _ _ fun _ => id⟩
  | addReg | sub | shr | subn | shl => exact .inl ⟨_, rfl, .writeResultAndFlag _ _ _ fun _ => id⟩
  | ldVxMem x => exact .inl ⟨_, rfl, .unlessFault fun _ => .loadRegs x fun _ => id⟩
  | ldI nnn => exact .inl ⟨_, rfl, .writeI _ (.inl ⟨nnn, rfl⟩)⟩
  | addIVx x => exact .inl ⟨_, rfl, .writeI _ (.inr (.inl ⟨x, rfl⟩))⟩
  | ldFVx x => exact .inl ⟨_, rfl, .writeI _ (.inr (.inr ⟨x, rfl⟩))⟩
  | ldDtVx x => exact .inl ⟨_, rfl, .writeDt x rfl _⟩
  | ldStVx x => exact .inl ⟨_, rfl, .writeSt x rfl _⟩
  | ldVxK x => exact .inl ⟨_, rfl, .awaitKey x rfl⟩
  | ldBVx x => exact .inl ⟨_, rfl, .storeAtI (by simp) (.inl ⟨x, rfl⟩)⟩
  | ldMemVx x => exact .inl ⟨_, rfl, .storeAtI (by simp) (.inr ⟨x, rfl⟩)⟩
  | cls => exact .inl ⟨_, rfl, .clear rfl _⟩
  | drw x y n => exact .inl ⟨_, rfl, .unlessFault fun _ => .draw x y n rfl _ _⟩

theorem effect_of_exec {i : Instr} {s t : State} (h : exec i s = .next t) : Effect i s t := by
  rcases exec_cases i s with ⟨u, hu, heff⟩ | ⟨-, hf⟩
  · obtain rfl := Host.Outcome.next.inj (hu.symm.trans h)
    exact heff
  · simp [hf] at h

/-! ## What each instruction leaves unchanged -/

/-- Settles O19, by the kind of write each instruction makes. -/
theorem stateIsWrittenOnlyByItsInstructions : Obligations.StateIsWrittenOnlyByItsInstructions := by
  intro i s t h
  cases effect_of_exec h with
  | raise | skip | jump => simp [SameMemory]
  | regs => exact ⟨fun _ _ _ => rfl, fun _ _ => rfl, fun _ => rfl, fun _ => rfl, fun _ => rfl, fun _ => rfl,
      fun _ _ _ => rfl, fun _ _ => rfl, rfl, rfl, rfl, rfl, rfl⟩
  | writeI a hi => rcases hi with ⟨n, rfl⟩ | ⟨x, rfl⟩ | ⟨x, rfl⟩ <;> simp [SameMemory]
  | store bs hi => rcases hi with ⟨x, rfl⟩ | ⟨x, rfl⟩ <;> simp
  | call _ hi | ret hi | writeDt _ hi | writeSt _ hi | awaitKey _ hi | clear hi | draw _ _ _ hi =>
    subst hi
    simp [SameMemory]

/-- Settles O20, by the kind of write each instruction makes. -/
theorem registersChangeOnlyAsDestinations : Obligations.RegistersChangeOnlyAsDestinations := by
  intro i s t z h hz
  cases effect_of_exec h with
  | regs v hv => exact hv z hz
  | draw x y n hi =>
    subst hi
    have hne : z ≠ vf := hz
    simp [hne]
  | raise | skip | jump | call | ret | writeI | writeDt | writeSt | awaitKey | store | clear => simp

/-! ## The font and the parameters -/

theorem Effect.cfg_eq {i : Instr} {s t : State} (h : Effect i s t) : t.cfg = s.cfg := by
  cases h <;> simp

/-- The font bytes and the instruction that stores: its check keeps it above the font (20_memory.md R55). -/
theorem Effect.peek_font {i : Instr} {s t : State} (h : Effect i s t) (hp : s.cfg.fontWritePolicy = .fault)
    {a : Nat} (ha : a < 80) : t.peek a = s.peek a := by
  cases h with
  | store bs _ hpos hok =>
    have hfont := ((s.storeFault_eq_none _ hpos).1 hok).2 hp
    rw [State.advance_peek, State.peek_pokeAll, dif_neg (by omega)]
  | regs => rfl
  | raise | skip | jump | call | ret | writeI | writeDt | writeSt | awaitKey | clear | draw => simp

/-! ## The wait cycle -/

section
variable (s : State)

/-- A wait cycle writes the target register and the mode, or nothing (40_cycle.md R92). -/
theorem State.waitCycle_eq :
    s.waitCycle = { s with v := s.waitCycle.v, mode := s.waitCycle.mode } := by
  unfold State.waitCycle
  split <;> rfl

@[simp] theorem State.waitCycle_pc : s.waitCycle.pc = s.pc := by rw [State.waitCycle_eq]
@[simp] theorem State.waitCycle_sp : s.waitCycle.sp = s.sp := by rw [State.waitCycle_eq]
@[simp] theorem State.waitCycle_stack : s.waitCycle.stack = s.stack := by rw [State.waitCycle_eq]
@[simp] theorem State.waitCycle_mem : s.waitCycle.mem = s.mem := by rw [State.waitCycle_eq]
@[simp] theorem State.waitCycle_cfg : s.waitCycle.cfg = s.cfg := by rw [State.waitCycle_eq]
@[simp] theorem State.waitCycle_peek (a : Nat) : s.waitCycle.peek a = s.peek a := by
  rw [State.waitCycle_eq]; rfl

end

/-- Settles O21: outside the apply phase no cycle writes memory or the parameters, and the apply phase keeps
both. -/
theorem fontAndParametersNeverChange : Obligations.FontAndParametersNeverChange := by
  intro s t h
  rcases step_cases s with ⟨f, -, hs⟩ | ⟨-, hs⟩ | ⟨-, -, hs⟩ | ⟨-, -, -, hs⟩ | ⟨i, -, -, -, hs⟩
  case inr.inr.inr.inr =>  -- an instruction runs
    have heff := effect_of_exec (hs.symm.trans h)
    exact ⟨by simpa using heff.cfg_eq, fun hp a ha => by simpa using heff.peek_font hp ha⟩
  all_goals
    obtain rfl := Host.Outcome.next.inj (hs.symm.trans h)
    simp

/-! ## The decoder answers well-formed instructions (30_encoding.md R73) -/

theorem addressWf_fieldNNN (w : Word) : addressWf (fieldNNN w) = true := by
  have h := (w.extractLsb' 0 12).isLt
  rw [addressWf_iff, fieldNNN, BitVec.toNat_setWidth]
  omega

theorem opcodeMap_make_wf : ∀ r ∈ opcodeMap, ∀ w, (r.make w).wf = true := by
  simp [opcodeMap, rowsFFFF, rowsF0FF, rowsF00F, rowsF000, Instr.wf, addressWf_fieldNNN]

theorem decodeWord_wf {w : Word} {i : Instr} (h : decodeWord w = some i) : i.wf = true := by
  obtain ⟨r, hr, rfl⟩ := Option.map_eq_some_iff.1 h
  exact opcodeMap_make_wf r (List.mem_of_find?_eq_some hr) w

/-! ## The invariant -/

/-- The invariant speaks of memory, the parameters, the stack and `PC` only. -/
theorem State.Inv.frame {s t : State} (hs : s.Inv) (hmem : t.mem = s.mem) (hcfg : t.cfg = s.cfg)
    (hsp : t.sp = s.sp) (hstack : t.stack = s.stack) (hpc : t.pc.toNat ≤ 0x10FE) : t.Inv where
  memWf := by rw [hmem, hcfg]; exact hs.memWf
  spLe := by rw [hsp]; exact hs.spLe
  pcLe := hpc
  slotsLe := by rw [hstack]; exact hs.slotsLe
  font := by
    simp only [State.fontIntact, State.peek, hmem, hcfg]
    exact hs.font

/-- After a fetch `PC` is at most 4094, so neither a skip nor a return address can wrap. -/
theorem pc_add_two_toNat {s : State} (hpc : s.pc.toNat + 1 < 4096) : (s.pc + 2).toNat = s.pc.toNat + 2 := by
  bv_omega

theorem State.Inv.push {s : State} (hs : s.Inv) (hsp : s.sp.toNat < 16) {a : Word} (ha : a.toNat ≤ 4096) :
    (s.push a).Inv where
  memWf := hs.memWf
  spLe := by
    rw [State.push_sp]
    bv_omega
  pcLe := hs.pcLe
  slotsLe := fun k => by
    simp only [State.push_stack, Vector.getElem_setIfInBounds]
    split
    · exact ha
    · exact hs.slotsLe k
  font := hs.font

theorem State.Inv.popTo {s : State} (hs : s.Inv) (hsp : s.sp ≠ 0) {a : Word} (ha : a.toNat ≤ 4096) :
    (s.popTo a).Inv where
  memWf := hs.memWf
  spLe := by
    have hle := hs.spLe
    rw [State.popTo_sp]
    bv_omega
  pcLe := by rw [State.popTo_pc]; omega
  slotsLe := hs.slotsLe
  font := hs.font

/-- A store that passes its check stays inside the 4096 bytes and, where the policy protects it, above the
font (20_memory.md R51, R55). -/
theorem State.Inv.pokeAll {s : State} (hs : s.Inv) {bs : List Byte} (hpos : 0 < bs.length)
    (hok : s.storeFault bs.length = none) : (s.pokeAll s.i.toNat bs).Inv := by
  obtain ⟨hend, hfont⟩ := (s.storeFault_eq_none _ hpos).1 hok
  refine ⟨?_, by simpa using hs.spLe, by simpa using hs.pcLe, by simpa using hs.slotsLe, ?_⟩
  · rw [State.pokeAll_cfg]
    exact s.wf_pokeAll _ bs hend hs.memWf
  · rw [State.pokeAll_cfg]
    intro hp a ha
    have habove := hfont hp
    rw [State.peek_pokeAll, dif_neg (by omega), State.pokeAll_cfg]
    exact hs.font hp a ha

/-- The apply phase of a well-formed instruction fetched inside memory keeps the invariant. -/
theorem Effect.inv {i : Instr} {s t : State} (h : Effect i s t) (hs : s.Inv) (hwf : i.wf = true)
    (hpc : s.pc.toNat + 1 < 4096) : t.Inv := by
  have hnext := pc_add_two_toNat hpc
  cases h with
  | call nnn hi hsp =>
    subst hi
    have hnnn := (addressWf_iff nnn).1 hwf
    exact (hs.push hsp (by omega)).frame rfl rfl rfl rfl (by rw [State.writePc_pc]; omega)
  | ret hi hsp k => exact hs.popTo hsp (hs.slotsLe k)
  | store bs hi hpos hok =>
    exact (hs.pokeAll hpos hok).frame rfl rfl rfl rfl (by rw [State.advance_pc, State.pokeAll_pc]; omega)
  | raise => exact hs.frame rfl rfl rfl rfl hs.pcLe
  | skip p hp =>
    refine hs.frame rfl rfl rfl rfl ?_
    rw [State.writePc_pc]
    bv_omega
  | jump p hp => exact hs.frame rfl rfl rfl rfl (hp hwf)
  | regs | writeI | writeDt | writeSt | awaitKey | clear | draw =>
    exact hs.frame rfl rfl rfl rfl (by change (s.pc + 2).toNat ≤ 0x10FE; omega)

theorem State.Inv.beginCycle {s : State} (hs : s.Inv) : s.beginCycle.Inv :=
  hs.frame rfl rfl rfl rfl hs.pcLe

/-- One step of a state of the invariant completes and keeps the invariant, by the kind of cycle. -/
theorem State.Inv.step {s : State} (hs : s.Inv) : ∃ t, step s = .next t ∧ t.Inv := by
  have hb := hs.beginCycle
  rcases step_cases s with ⟨f, -, h⟩ | ⟨-, h⟩ | ⟨-, -, h⟩ | ⟨-, -, -, h⟩ | ⟨i, -, hpc, hd, h⟩
  · exact ⟨_, h, hb⟩
  · exact ⟨_, h, hb.frame (by simp) (by simp) (by simp) (by simp) (by simpa using hb.pcLe)⟩
  · exact ⟨_, h, hb.frame rfl rfl rfl rfl hb.pcLe⟩
  · exact ⟨_, h, hb.frame rfl rfl rfl rfl hb.pcLe⟩
  · have ht : s.beginCycle.timerStep.Inv := hb.frame rfl rfl rfl rfl hb.pcLe
    rcases exec_cases i s.beginCycle.timerStep with ⟨t, hex, heff⟩ | ⟨hsp, -⟩
    · exact ⟨t, h.trans hex, heff.inv ht (decodeWord_wf hd) hpc⟩
    · exact absurd ht.spLe (Nat.not_le.2 hsp)

/-- Settles O24, from the step lemma of the invariant. -/
theorem stepKeepsTheInvariant : Obligations.StepKeepsTheInvariant := by
  intro s t hs h
  obtain ⟨u, hu, hinv⟩ := hs.step
  obtain rfl := Host.Outcome.next.inj (hu.symm.trans h)
  exact hinv

/-- A run whose first step completes is that step and a run of one step less. -/
theorem run_succ_of_next {M : Host.Core} {n : Nat} {s u : M.State} (h : M.step s = .next u) :
    M.run (n + 1) s = M.run n u := by
  rw [Host.Core.run, h]

/-- Settles O25, by induction on the number of cycles. -/
theorem runsOfAnyLengthComplete : Obligations.RunsOfAnyLengthComplete := by
  intro n
  induction n with
  | zero => exact fun s hs => ⟨s, rfl, hs⟩
  | succ n ih =>
    intro s hs
    obtain ⟨u, hu, hinv⟩ := hs.step
    obtain ⟨t, hrun, ht⟩ := ih u hinv
    exact ⟨t, (run_succ_of_next (M := Sys2Proof.core) hu).trans hrun, ht⟩

/-! ## Reset -/

theorem resetWith_inv (cfg : Config) : (State.resetWith cfg).Inv where
  memWf := Memory.wf_nil cfg
  spLe := by simp [State.resetWith]
  pcLe := by simp [State.resetWith]
  slotsLe := fun k => by simp [State.resetWith]
  font := fun _ a _ => State.resetWith_peek cfg a

/-- Settles O22: the default parameters are one value of the parameters. -/
theorem invariantHoldsAtReset : Obligations.InvariantHoldsAtReset :=
  ⟨resetWith_inv Config.default, resetWith_inv⟩

theorem resetByte_font (cfg : Config) (a : Fin 80) : resetByte cfg a.val = cfg.font[a.val] :=
  dif_pos a.isLt

theorem resetByte_above_font (cfg : Config) {a : Nat} (ha : 80 ≤ a) : resetByte cfg a = 0 :=
  dif_neg (Nat.not_lt.2 ha)

/-- Settles O26: the listed fields by definition, memory by what an unlisted byte reads as. -/
theorem resetLeavesTheListedValues : Obligations.ResetLeavesTheListedValues := by
  intro cfg
  refine ⟨fun x => ?_, rfl, rfl, rfl, fun k => ?_, rfl, rfl, resetByte_font cfg,
    fun a => resetByte_above_font cfg, Framebuffer.cell_blank, rfl, rfl, rfl, rfl, rfl, rfl, rfl, rfl, rfl⟩
  · simp [State.resetWith, State.readV]
  · simp [State.resetWith]

end Sys2Proof.Machine
end

section
/-! Memory and instruction fetch (20_memory.md): read after write, the byte order of a fetched word, and the
cycle whose fetch is not wholly inside memory. -/

namespace Sys2Proof.Machine

/-! ## Read after write -/

/-- Settles O29: the read of a byte after a write, and the canonical form a write inside memory keeps. -/
theorem memoryReadsTheLatestWrite : Obligations.MemoryReadsTheLatestWrite := by
  intro s a b
  refine ⟨?_, fun c hc => ?_, fun ha hwf => Memory.wf_write s.cfg s.mem a b ha hwf⟩
  · rw [State.peek_poke, if_pos rfl]
  · rw [State.peek_poke, if_neg hc]

/-! ## The fetched word -/

/-- The byte at the lower address is the more significant one (20_memory.md R53). -/
theorem wordOfBytes_toNat (hi lo : Byte) : (wordOfBytes hi lo).toNat = 256 * hi.toNat + lo.toNat := by
  rw [wordOfBytes, BitVec.toNat_append, ← Nat.shiftLeft_add_eq_or_of_lt lo.isLt, Nat.shiftLeft_eq]
  omega

/-- A fetch sees the two bytes stored just before it (20_memory.md R64). -/
theorem State.fetch16_poke_poke (s : State) (a : Nat) (hi lo : Byte) (h : a + 1 < 4096) :
    ((s.poke a hi).poke (a + 1) lo).fetch16 a = .ok (wordOfBytes hi lo) := by
  rw [State.fetch16_ok _ _ h]
  simp

/-- Settles O30: the fetch of the two stored bytes, their order in the word, and the fetch past the end. -/
theorem fetchIsBigEndianAndCoherent : Obligations.FetchIsBigEndianAndCoherent := by
  intro s a hi lo
  exact ⟨fun h => ⟨wordOfBytes hi lo, s.fetch16_poke_poke a hi lo h, wordOfBytes_toNat hi lo⟩,
    s.fetch16_error a⟩

/-! ## The cycle that faults before the timer step -/

/-- A fatal error taken before the timer step leaves every field of the core as it was (60_exceptions.md R225). -/
theorem State.sameCore_raise_beginCycle (s : State) (f : FatalError) : SameCore s (s.beginCycle.raise f) :=
  ⟨rfl, rfl, rfl, rfl, rfl, rfl, rfl, rfl, rfl, rfl, rfl⟩

/-- The cycle of a fetching core whose fetch is not wholly inside memory (20_memory.md R52). -/
theorem step_of_fetch_outside {s : State} (hm : s.mode = .fetching) (hpc : 4095 ≤ s.pc.toNat) :
    step s = .next (s.beginCycle.raise (.outOfBounds .fetch (s.pc.setWidth 18))) := by
  rcases step_cases s with ⟨f, hf, -⟩ | ⟨hw, -⟩ | ⟨-, -, hs⟩ | ⟨-, hlt, -⟩ | ⟨i, -, hlt, -⟩
  · simp [hm] at hf
  · simp [hm] at hw
  · rw [hs, BitVec.ofNat_toNat]
  · omega
  · omega

/-- Settles O9: the cycle of such a fetch takes the error, and taking it keeps the core. -/
theorem fetchOutsideMemoryHalts : Obligations.FetchOutsideMemoryHalts := by
  intro s hm hpc
  exact ⟨_, step_of_fetch_outside hm hpc, State.raise_mode _ _, s.sameCore_raise_beginCycle _,
    State.raise_fbChanged _ _, by simp⟩

end Sys2Proof.Machine
end

section
/-! The decoder and the encoder (30_encoding.md R70–R79): the fields and the tests of the opcode map in arithmetic,
the disjoint rows, and the two round trips. -/

namespace Sys2Proof

/-! ## Fields and formats in arithmetic (30_encoding.md R71–R73) -/

@[simp] theorem fieldX_val (w : Word) : (fieldX w).val = w.toNat / 256 % 16 := by
  simp [fieldX, Nat.shiftRight_eq_div_pow]

@[simp] theorem fieldY_val (w : Word) : (fieldY w).val = w.toNat / 16 % 16 := by
  simp [fieldY, Nat.shiftRight_eq_div_pow]

@[simp] theorem fieldN_val (w : Word) : (fieldN w).val = w.toNat % 16 := by
  simp [fieldN]

@[simp] theorem fieldKK_toNat (w : Word) : (fieldKK w).toNat = w.toNat % 256 := by
  simp [fieldKK]

@[simp] theorem fieldNNN_toNat (w : Word) : (fieldNNN w).toNat = w.toNat % 4096 := by
  simp [fieldNNN]
  omega

theorem toNat_append_eq_add {m n : Nat} (a : BitVec m) (b : BitVec n) :
    (a ++ b).toNat = a.toNat * 2 ^ n + b.toNat := by
  rw [BitVec.toNat_append, ← Nat.shiftLeft_add_eq_or_of_lt b.isLt, Nat.shiftLeft_eq]

theorem encodeNNN_toNat (o : BitVec 4) (nnn : Word) :
    (encodeNNN o nnn).toNat = o.toNat * 4096 + nnn.toNat % 4096 := by
  have h : (encodeNNN o nnn).toNat = _ := toNat_append_eq_add o (nnn.setWidth 12)
  rw [h]
  simp

theorem encodeXKK_toNat (o : BitVec 4) (x : RegIx) (kk : Byte) :
    (encodeXKK o x kk).toNat = o.toNat * 4096 + x.val * 256 + kk.toNat := by
  have h : (encodeXKK o x kk).toNat = _ := toNat_append_eq_add (o ++ nibble x) kk
  rw [h, toNat_append_eq_add, nibble_toNat]
  omega

theorem encodeXYN_toNat (o : BitVec 4) (x y n : Fin 16) :
    (encodeXYN o x y n).toNat = o.toNat * 4096 + x.val * 256 + y.val * 16 + n.val := by
  have h : (encodeXYN o x y n).toNat = _ := toNat_append_eq_add (o ++ nibble x ++ nibble y) (nibble n)
  rw [h, toNat_append_eq_add, toNat_append_eq_add, nibble_toNat, nibble_toNat, nibble_toNat]
  omega

/-! ## The masks of the opcode map -/

/-- A word is the sum of its nibbles. -/
theorem toNat_eq_nibbles (w : Word) :
    w.toNat = (w.extractLsb' 12 4).toNat * 4096 + (w.extractLsb' 8 4).toNat * 256 +
      (w.extractLsb' 4 4).toNat * 16 + (w.extractLsb' 0 4).toNat := by
  have := w.isLt
  simp only [BitVec.extractLsb'_toNat, Nat.shiftRight_eq_div_pow]
  omega

/-- A mask keeps or clears nibble by nibble. -/
theorem toNat_and_nibbles (w m : Word) :
    (w &&& m).toNat = (w.extractLsb' 12 4 &&& m.extractLsb' 12 4).toNat * 4096 +
      (w.extractLsb' 8 4 &&& m.extractLsb' 8 4).toNat * 256 +
      (w.extractLsb' 4 4 &&& m.extractLsb' 4 4).toNat * 16 + (w.extractLsb' 0 4 &&& m.extractLsb' 0 4).toNat := by
  rw [toNat_eq_nibbles (w &&& m)]
  simp only [BitVec.extractLsb'_and]

theorem nibble_and_ones (a : BitVec 4) : a &&& 15#4 = a := BitVec.and_allOnes

theorem and_F000_toNat (w : Word) : (w &&& 0xF000#16).toNat = w.toNat / 4096 * 4096 := by
  have := w.isLt
  rw [toNat_and_nibbles]
  simp [nibble_and_ones, Nat.shiftRight_eq_div_pow]
  omega

theorem and_F00F_toNat (w : Word) : (w &&& 0xF00F#16).toNat = w.toNat / 4096 * 4096 + w.toNat % 16 := by
  have := w.isLt
  rw [toNat_and_nibbles]
  simp [nibble_and_ones, Nat.shiftRight_eq_div_pow]
  omega

theorem and_F0FF_toNat (w : Word) : (w &&& 0xF0FF#16).toNat = w.toNat / 4096 * 4096 + w.toNat % 256 := by
  have := w.isLt
  rw [toNat_and_nibbles]
  simp [nibble_and_ones, Nat.shiftRight_eq_div_pow]
  omega

theorem and_FF0F_toNat (w : Word) : (w &&& 0xFF0F#16).toNat = w.toNat / 256 * 256 + w.toNat % 16 := by
  have := w.isLt
  rw [toNat_and_nibbles]
  simp [nibble_and_ones, Nat.shiftRight_eq_div_pow]
  omega

theorem and_FFFF (w : Word) : w &&& 0xFFFF#16 = w := BitVec.and_allOnes

/-! ## The rows are disjoint (30_encoding.md R75) -/

/-- The two tests disagree on a bit both masks keep, so no word passes both. -/
abbrev OpcodeRow.Apart (r₁ r₂ : OpcodeRow) : Prop := r₁.bits &&& r₂.mask ≠ r₂.bits &&& r₁.mask

theorem OpcodeRow.hits_iff (r : OpcodeRow) (w : Word) : r.hits w = true ↔ w &&& r.mask = r.bits := by
  simp [OpcodeRow.hits]

theorem OpcodeRow.not_apart_of_hits {r₁ r₂ : OpcodeRow} {w : Word} (h₁ : r₁.hits w = true)
    (h₂ : r₂.hits w = true) : ¬ r₁.Apart r₂ := by
  rw [OpcodeRow.hits_iff] at h₁ h₂
  rw [OpcodeRow.Apart, not_not, ← h₁, ← h₂, BitVec.and_assoc, BitVec.and_assoc, BitVec.and_comm r₁.mask]

theorem opcodeMap_apart : opcodeMap.Pairwise OpcodeRow.Apart := by decide

/-- No word matches two rows. -/
theorem row_unique {r₁ r₂ : OpcodeRow} {w : Word} (hr₁ : r₁ ∈ opcodeMap) (hr₂ : r₂ ∈ opcodeMap)
    (h₁ : r₁.hits w = true) (h₂ : r₂.hits w = true) : r₁ = r₂ := by
  have hsymm : Std.Symm OpcodeRow.Apart := ⟨fun _ _ => Ne.symm⟩
  by_contra hne
  exact OpcodeRow.not_apart_of_hits h₁ h₂ (opcodeMap_apart.forall hr₁ hr₂ hne)

theorem hits_of_find? {rows : List OpcodeRow} {w : Word} {r : OpcodeRow} (h : rows.find? (·.hits w) = some r) :
    r.hits w = true :=
  List.find?_some (p := fun q : OpcodeRow => q.hits w) h

/-- In any order of the rows, the search finds the one row that matches. -/
theorem find?_hits_eq_some_iff {rows : List OpcodeRow} (hp : rows.Perm opcodeMap) (w : Word) (r : OpcodeRow) :
    rows.find? (·.hits w) = some r ↔ r ∈ opcodeMap ∧ r.hits w = true := by
  constructor
  · exact fun h => ⟨hp.subset (List.mem_of_find?_eq_some h), hits_of_find? h⟩
  · rintro ⟨hr, hw⟩
    cases hf : rows.find? (·.hits w) with
    | none => exact absurd hw (List.find?_eq_none.1 hf r (hp.symm.subset hr))
    | some q => rw [row_unique (hp.subset (List.mem_of_find?_eq_some hf)) hr (hits_of_find? hf) hw]

theorem matchingRow_eq_some_iff (w : Word) (r : OpcodeRow) :
    matchingRow w = some r ↔ r ∈ opcodeMap ∧ r.hits w = true :=
  find?_hits_eq_some_iff (.refl _) w r

theorem decodeWord_eq_some_iff (w : Word) (i : Instr) :
    decodeWord w = some i ↔ ∃ r ∈ opcodeMap, r.hits w = true ∧ r.make w = i := by
  simp [decodeWord, matchingRow_eq_some_iff, and_assoc]

theorem decodeWord_eq_none_iff (w : Word) : decodeWord w = none ↔ ∀ r ∈ opcodeMap, r.hits w = false := by
  simp [decodeWord, matchingRow]

/-- Settles O3: the search finds the same row in every order, since no word matches two. -/
theorem everyPriorityOrderDecodesAlike : Obligations.EveryPriorityOrderDecodesAlike := by
  refine ⟨fun w r₁ r₂ hr₁ hr₂ h₁ h₂ => by rw [row_unique hr₁ hr₂ h₁ h₂], fun w rows hp => ?_⟩
  have hrow : rows.find? (·.hits w) = matchingRow w :=
    Option.ext fun r => (find?_hits_eq_some_iff hp w r).trans (matchingRow_eq_some_iff w r).symm
  rw [hrow, decodeWord]

/-! ## The ports and the operands (30_encoding.md R71, R73, R74) -/

/-- Settles O5: the fields in arithmetic, and the ports of the one row that matches. -/
theorem decoderDrivesItsPorts : Obligations.DecoderDrivesItsPorts := by
  refine ⟨by decide, fun w => ⟨fieldX_val w, fieldY_val w, fieldN_val w, fieldKK_toNat w, ?_, rfl, ?_, ?_⟩⟩
  · exact BitVec.extractLsb'_toNat 0 12 w
  · simp [decoderPorts, Option.isSome_iff_exists, matchingRow_eq_some_iff, OpcodeRow.hits_iff]
  · intro r hr hw
    have hrow : matchingRow w = some r := (matchingRow_eq_some_iff w r).2 ⟨hr, (r.hits_iff w).2 hw⟩
    simp [decoderPorts, decodeWord, hrow]

theorem operandsOfWord_make : ∀ r ∈ opcodeMap, ∀ w, Machine.OperandsOfWord w (r.make w) := by
  simp [opcodeMap, rowsFFFF, rowsF0FF, rowsF00F, rowsF000, Machine.OperandsOfWord]

/-- Settles O6: every row reads its operands from the fields. -/
theorem operandsAreTheFieldsOfTheWord : Obligations.OperandsAreTheFieldsOfTheWord := by
  intro w i h
  obtain ⟨r, hr, -, rfl⟩ := (decodeWord_eq_some_iff w i).1 h
  exact operandsOfWord_make r hr w

/-! ## Decoding what is encoded (30_encoding.md R71–R76) -/

theorem decodeWord_encode (i : Instr) (hwf : i.wf = true) : decodeWord (encode i) = some i := by
  cases i with
  | cls => exact Laws.WordRoundTrip.cls hwf
  | ret => exact Laws.WordRoundTrip.ret hwf
  | skp x => exact Laws.WordRoundTrip.skp x hwf
  | sknp x => exact Laws.WordRoundTrip.sknp x hwf
  | ldVxDt x => exact Laws.WordRoundTrip.ldVxDt x hwf
  | ldVxK x => exact Laws.WordRoundTrip.ldVxK x hwf
  | ldDtVx x => exact Laws.WordRoundTrip.ldDtVx x hwf
  | ldStVx x => exact Laws.WordRoundTrip.ldStVx x hwf
  | addIVx x => exact Laws.WordRoundTrip.addIVx x hwf
  | ldFVx x => exact Laws.WordRoundTrip.ldFVx x hwf
  | ldBVx x => exact Laws.WordRoundTrip.ldBVx x hwf
  | ldMemVx x => exact Laws.WordRoundTrip.ldMemVx x hwf
  | ldVxMem x => exact Laws.WordRoundTrip.ldVxMem x hwf
  | seReg x y => exact Laws.WordRoundTrip.seReg x y hwf
  | ldReg x y => exact Laws.WordRoundTrip.ldReg x y hwf
  | orReg x y => exact Laws.WordRoundTrip.orReg x y hwf
  | andReg x y => exact Laws.WordRoundTrip.andReg x y hwf
  | xorReg x y => exact Laws.WordRoundTrip.xorReg x y hwf
  | addReg x y => exact Laws.WordRoundTrip.addReg x y hwf
  | sub x y => exact Laws.WordRoundTrip.sub x y hwf
  | shr x => exact Laws.WordRoundTrip.shr x hwf
  | subn x y => exact Laws.WordRoundTrip.subn x y hwf
  | shl x => exact Laws.WordRoundTrip.shl x hwf
  | sneReg x y => exact Laws.WordRoundTrip.sneReg x y hwf
  | jp nnn => exact Laws.WordRoundTrip.jp nnn hwf
  | call nnn => exact Laws.WordRoundTrip.call nnn hwf
  | seImm x kk => exact Laws.WordRoundTrip.seImm x kk hwf
  | sneImm x kk => exact Laws.WordRoundTrip.sneImm x kk hwf
  | ldImm x kk => exact Laws.WordRoundTrip.ldImm x kk hwf
  | addImm x kk => exact Laws.WordRoundTrip.addImm x kk hwf
  | ldI nnn => exact Laws.WordRoundTrip.ldI nnn hwf
  | jpV0 nnn => exact Laws.WordRoundTrip.jpV0 nnn hwf
  | rnd x kk => exact Laws.WordRoundTrip.rnd x kk hwf
  | drw x y n => exact Laws.WordRoundTrip.drw x y n hwf

/-- The two bytes of a word spell it (20_memory.md R52, R53). -/
theorem wordOfBytes_extractLsb' (w : Word) : wordOfBytes (w.extractLsb' 8 8) (w.extractLsb' 0 8) = w :=
  (BitVec.extractLsb'_append_extractLsb'_eq_extractLsb' rfl).trans BitVec.extractLsb'_eq_self

theorem decode_wordBytes {w : Word} {i : Instr} (h : decodeWord w = some i) (rest : List Byte) :
    decode (wordBytes w ++ rest) = .ok (i, rest) := by
  simp [wordBytes, decode, wordOfBytes_extractLsb', h]

/-- Settles O1, from the word's round trip and the bytes of a word. -/
theorem decodeInvertsEncode : Obligations.DecodeInvertsEncode :=
  fun i rest hwf => decode_wordBytes (decodeWord_encode i hwf) rest

/-! ## Encoding what is decoded (30_encoding.md R73, R76, R79) -/

theorem toNat_high (o : BitVec 4) : (o ++ 0#12 : Word).toNat = o.toNat * 4096 := by
  have h : (o ++ 0#12 : Word).toNat = _ := toNat_append_eq_add o 0#12
  rw [h, BitVec.toNat_zero]
  omega

theorem toNat_high_byte (o : BitVec 4) (k : Byte) : (o ++ 0#4 ++ k : Word).toNat = o.toNat * 4096 + k.toNat := by
  have h : (o ++ 0#4 ++ k : Word).toNat = _ := toNat_append_eq_add (o ++ 0#4) k
  rw [h, toNat_append_eq_add, BitVec.toNat_zero]
  omega

theorem toNat_high_low (o : BitVec 4) (n : Fin 16) :
    (o ++ 0#8 ++ nibble n : Word).toNat = o.toNat * 4096 + n.val := by
  have h : (o ++ 0#8 ++ nibble n : Word).toNat = _ := toNat_append_eq_add (o ++ 0#8) (nibble n)
  rw [h, toNat_append_eq_add, BitVec.toNat_zero, nibble_toNat]
  omega

/-! Format by format: the fields of a word that passes the test, encoded again, are the word. -/

theorem encodeNNN_fieldNNN (o : BitVec 4) (w : Word) :
    encodeNNN o (fieldNNN w) = w ↔ w &&& 0xF000#16 = o ++ 0#12 := by
  rw [← BitVec.toNat_inj, ← BitVec.toNat_inj, encodeNNN_toNat, fieldNNN_toNat, and_F000_toNat, toNat_high]
  omega

theorem encodeXKK_fieldX (o : BitVec 4) (k : Byte) (w : Word) :
    encodeXKK o (fieldX w) k = w ↔ w &&& 0xF0FF#16 = o ++ 0#4 ++ k := by
  rw [← BitVec.toNat_inj, ← BitVec.toNat_inj, encodeXKK_toNat, fieldX_val, and_F0FF_toNat, toNat_high_byte]
  omega

theorem encodeXKK_fieldX_fieldKK (o : BitVec 4) (w : Word) :
    encodeXKK o (fieldX w) (fieldKK w) = w ↔ w &&& 0xF000#16 = o ++ 0#12 := by
  rw [← BitVec.toNat_inj, ← BitVec.toNat_inj, encodeXKK_toNat, fieldX_val, fieldKK_toNat, and_F000_toNat, toNat_high]
  omega

theorem encodeXYN_fieldX_fieldY (o : BitVec 4) (n : Fin 16) (w : Word) :
    encodeXYN o (fieldX w) (fieldY w) n = w ↔ w &&& 0xF00F#16 = o ++ 0#8 ++ nibble n := by
  rw [← BitVec.toNat_inj, ← BitVec.toNat_inj, encodeXYN_toNat, fieldX_val, fieldY_val, and_F00F_toNat, toNat_high_low]
  omega

theorem encodeXYN_fieldX_zero (o : BitVec 4) (n : Fin 16) (w : Word) :
    encodeXYN o (fieldX w) 0 n = w &&& 0xFF0F#16 ↔ w &&& 0xF00F#16 = o ++ 0#8 ++ nibble n := by
  rw [← BitVec.toNat_inj, ← BitVec.toNat_inj, encodeXYN_toNat, fieldX_val, and_FF0F_toNat, and_F00F_toNat,
    toNat_high_low, Fin.val_zero]
  omega

theorem encodeXYN_fields (o : BitVec 4) (w : Word) :
    encodeXYN o (fieldX w) (fieldY w) (fieldN w) = w ↔ w &&& 0xF000#16 = o ++ 0#12 := by
  rw [← BitVec.toNat_inj, ← BitVec.toNat_inj, encodeXYN_toNat, fieldX_val, fieldY_val, fieldN_val, and_F000_toNat,
    toNat_high]
  omega

/-- A word of the instruction with the nibble it does not read written 0: `y` of SHR and SHL (R79). -/
def Instr.clearUnused : Instr → Word → Word
  | .shr _, w | .shl _, w => w &&& 0xFF0F#16
  | _, w => w

theorem encode_make_rowsFFFF :
    ∀ r ∈ rowsFFFF, ∀ w, r.hits w = true → encode (r.make w) = (r.make w).clearUnused w := by
  simp [rowsFFFF, OpcodeRow.hits_iff, encode, Instr.clearUnused, and_FFFF]

theorem encode_make_rowsF0FF :
    ∀ r ∈ rowsF0FF, ∀ w, r.hits w = true → encode (r.make w) = (r.make w).clearUnused w := by
  simp [rowsF0FF, OpcodeRow.hits_iff, encode, Instr.clearUnused, encodeXKK_fieldX]

theorem encode_make_rowsF00F :
    ∀ r ∈ rowsF00F, ∀ w, r.hits w = true → encode (r.make w) = (r.make w).clearUnused w := by
  simp [rowsF00F, OpcodeRow.hits_iff, encode, Instr.clearUnused, encodeXYN_fieldX_fieldY, encodeXYN_fieldX_zero,
    nibble]

theorem encode_make_rowsF000 :
    ∀ r ∈ rowsF000, ∀ w, r.hits w = true → encode (r.make w) = (r.make w).clearUnused w := by
  simp [rowsF000, OpcodeRow.hits_iff, encode, Instr.clearUnused, encodeNNN_fieldNNN, encodeXKK_fieldX_fieldKK,
    encodeXYN_fields]

theorem encode_of_decodeWord {w : Word} {i : Instr} (h : decodeWord w = some i) : encode i = i.clearUnused w := by
  obtain ⟨r, hr, hw, rfl⟩ := (decodeWord_eq_some_iff w i).1 h
  simp only [opcodeMap, List.mem_append] at hr
  rcases hr with hr | hr | hr | hr
  · exact encode_make_rowsFFFF r hr w hw
  · exact encode_make_rowsF0FF r hr w hw
  · exact encode_make_rowsF00F r hr w hw
  · exact encode_make_rowsF000 r hr w hw

/-- Settles O2, row by row: the tested bits and the fields make up the word. -/
theorem encodeInvertsDecode : Obligations.EncodeInvertsDecode := by
  intro w i h
  refine ⟨Machine.decodeWord_wf h, fun hne => ?_, ?_⟩
  · rw [encode_of_decodeWord h]
    cases i with
    | shr x => exact absurd rfl (hne x).1
    | shl x => exact absurd rfl (hne x).2
    | _ => rfl
  · rintro ⟨x, rfl | rfl⟩ <;> exact encode_of_decodeWord h

/-! ## The words that are not instructions (30_encoding.md R77) -/

theorem hits_F000 (t : BitVec 6) (b : Word) (f : Word → Instr) (w : Word) :
    (OpcodeRow.mk t 0xF000#16 b f).hits w = true ↔ w.toNat / 4096 * 4096 = b.toNat := by
  rw [OpcodeRow.hits_iff, ← BitVec.toNat_inj, and_F000_toNat]

theorem hits_F00F (t : BitVec 6) (b : Word) (f : Word → Instr) (w : Word) :
    (OpcodeRow.mk t 0xF00F#16 b f).hits w = true ↔ w.toNat / 4096 * 4096 + w.toNat % 16 = b.toNat := by
  rw [OpcodeRow.hits_iff, ← BitVec.toNat_inj, and_F00F_toNat]

theorem hits_F0FF (t : BitVec 6) (b : Word) (f : Word → Instr) (w : Word) :
    (OpcodeRow.mk t 0xF0FF#16 b f).hits w = true ↔ w.toNat / 4096 * 4096 + w.toNat % 256 = b.toNat := by
  rw [OpcodeRow.hits_iff, ← BitVec.toNat_inj, and_F0FF_toNat]

theorem hits_FFFF (t : BitVec 6) (b : Word) (f : Word → Instr) (w : Word) :
    (OpcodeRow.mk t 0xFFFF#16 b f).hits w = true ↔ w = b := by
  rw [OpcodeRow.hits_iff, and_FFFF]

/-- No row that tests the whole word matches. -/
theorem no_hit_rowsFFFF (w : Word) : (∀ r ∈ rowsFFFF, r.hits w = false) ↔ w ≠ 0x00E0 ∧ w ≠ 0x00EE := by
  simp [rowsFFFF, ← Bool.not_eq_true, hits_FFFF]

/-- No row that tests the high nibble and the low byte matches. -/
theorem no_hit_rowsF0FF (w : Word) :
    (∀ r ∈ rowsF0FF, r.hits w = false) ↔
      (w.toNat / 4096 = 0xE → w.toNat % 256 ∉ [0x9E, 0xA1]) ∧
      (w.toNat / 4096 = 0xF → w.toNat % 256 ∉ [0x07, 0x0A, 0x15, 0x18, 0x1E, 0x29, 0x33, 0x55, 0x65]) := by
  simp [rowsF0FF, ← Bool.not_eq_true, hits_F0FF]
  omega

/-- No row that tests the high and the low nibble matches. -/
theorem no_hit_rowsF00F (w : Word) :
    (∀ r ∈ rowsF00F, r.hits w = false) ↔
      (w.toNat / 4096 = 5 → w.toNat % 16 ≠ 0) ∧
      (w.toNat / 4096 = 8 → w.toNat % 16 ∈ [8, 9, 0xA, 0xB, 0xC, 0xD, 0xF]) ∧
      (w.toNat / 4096 = 9 → w.toNat % 16 ≠ 0) := by
  simp [rowsF00F, ← Bool.not_eq_true, hits_F00F]
  omega

/-- No row that tests the high nibble alone matches. -/
theorem no_hit_rowsF000 (w : Word) :
    (∀ r ∈ rowsF000, r.hits w = false) ↔ w.toNat / 4096 ∈ [0, 5, 8, 9, 0xE, 0xF] := by
  have := w.isLt
  simp [rowsF000, ← Bool.not_eq_true, hits_F000]
  omega

/-- Settles O4: the high nibble says which rows may match, and in each of the six classes none of them does. -/
theorem illegalWordsAreTheSixClasses : Obligations.IllegalWordsAreTheSixClasses := by
  intro w
  have hzero : w.toNat / 4096 ≠ 0 → w ≠ 0x00E0 ∧ w ≠ 0x00EE := fun h => by
    constructor <;> (rintro rfl; exact h (by decide))
  simp only [decodeWord_eq_none_iff, opcodeMap, List.forall_mem_append, no_hit_rowsFFFF, no_hit_rowsF0FF,
    no_hit_rowsF00F, no_hit_rowsF000]
  generalize w.toNat / 4096 = t at *
  constructor
  · rintro ⟨h0, ⟨hE, hF⟩, ⟨h5, h8, h9⟩, ht⟩
    simp only [List.mem_cons, List.not_mem_nil, or_false] at ht
    rcases ht with rfl | rfl | rfl | rfl | rfl | rfl
    · exact .inl ⟨rfl, h0⟩
    · exact .inr (.inl ⟨rfl, h5 rfl⟩)
    · exact .inr (.inr (.inl ⟨rfl, h8 rfl⟩))
    · exact .inr (.inr (.inr (.inl ⟨rfl, h9 rfl⟩)))
    · exact .inr (.inr (.inr (.inr (.inl ⟨rfl, hE rfl⟩))))
    · exact .inr (.inr (.inr (.inr (.inr ⟨rfl, hF rfl⟩))))
  · rintro (⟨rfl, h⟩ | ⟨rfl, h⟩ | ⟨rfl, h⟩ | ⟨rfl, h⟩ | ⟨rfl, h⟩ | ⟨rfl, h⟩)
    · simpa using h
    all_goals exact ⟨hzero (by decide), by simpa using h⟩

/-- Settles O7: the decoder evaluated on the listed words. -/
theorem sampleWordsDecodeAsListed : Obligations.SampleWordsDecodeAsListed := by
  unfold Obligations.SampleWordsDecodeAsListed
  decide

end Sys2Proof

namespace Sys2Proof.Machine

/-! ## The cycle of an illegal word (40_cycle.md R93) -/

/-- The cycle of a fetching core whose word matches no row (30_encoding.md R77). -/
theorem step_of_illegal_word {s : State} (hm : s.mode = .fetching) (hpc : s.pc.toNat + 1 < 4096)
    (hd : decodeWord (wordOfBytes (s.peek s.pc.toNat) (s.peek (s.pc.toNat + 1))) = none) :
    step s = .next (s.beginCycle.raise
      (.unrecognizedInstruction (wordOfBytes (s.peek s.pc.toNat) (s.peek (s.pc.toNat + 1))))) := by
  rcases step_cases s with ⟨f, hf, -⟩ | ⟨hw, -⟩ | ⟨-, hout, -⟩ | ⟨-, -, -, hs⟩ | ⟨i, -, -, hi, -⟩
  · simp [hm] at hf
  · simp [hm] at hw
  · omega
  · exact hs
  · simp [hd] at hi

/-- Settles O10: the cycle of such a word takes the error, and taking it keeps the core. -/
theorem illegalWordHaltsBeforeTheTimers : Obligations.IllegalWordHaltsBeforeTheTimers := by
  rintro s w hm hpc rfl hd
  exact ⟨_, step_of_illegal_word hm hpc hd, State.raise_mode _ _, s.sameCore_raise_beginCycle _,
    State.raise_fbChanged _ _, by simp⟩

end Sys2Proof.Machine
end

section
/-! The cycle (40_cycle.md R90–R104): what a completed step can be, the halted core, the input-wait FSM, the timers
and the output ports. -/

namespace Sys2Proof.Machine

/-! ## What a completed step can be -/

/-- A step of a core that fetches a legal word is the apply phase of its instruction (40_cycle.md R93). -/
theorem step_of_fetched {s : State} {i : Instr} (h : s.fetched = some i) :
    step s = exec i s.beginCycle.timerStep := by
  obtain ⟨hm, hpc, hd⟩ := (s.fetched_eq_some i).1 h
  rcases step_cases s with ⟨f, hf, -⟩ | ⟨hw, -⟩ | ⟨-, hout, -⟩ | ⟨-, -, hn, -⟩ | ⟨j, -, -, hj, hs⟩
  · simp [hm] at hf
  · simp [hm] at hw
  · omega
  · simp [hd] at hn
  · obtain rfl := Option.some.inj (hd.symm.trans hj)
    exact hs

/-- The next states of a step, by the run state before it and what it fetched: `step_cases` in terms of `fetched`. -/
inductive NextState (s t : State) : Prop
  | halted (f : FatalError) (hm : s.mode = .halted f) (hn : s.fetched = none) (ht : t = s.beginCycle)
  | waiting (hm : s.mode = .awaitingKey) (hn : s.fetched = none) (ht : t = s.beginCycle.waitCycle)
  | raised (f : FatalError) (hm : s.mode = .fetching) (hn : s.fetched = none) (ht : t = s.beginCycle.raise f)
  | ran (i : Instr) (hm : s.mode = .fetching) (hi : s.fetched = some i)
      (hex : exec i s.beginCycle.timerStep = .next t)

theorem nextState_of_step {s t : State} (h : step s = .next t) : NextState s t := by
  cases hi : s.fetched with
  | some i =>
    exact .ran i ((s.fetched_eq_some i).1 hi).1 hi ((step_of_fetched hi).symm.trans h)
  | none =>
    rcases step_cases s with ⟨f, hm, hs⟩ | ⟨hm, hs⟩ | ⟨hm, -, hs⟩ | ⟨hm, -, -, hs⟩ | ⟨i, hm, hpc, hd, -⟩
    case inr.inr.inr.inr =>  -- an instruction runs
      simp [(s.fetched_eq_some i).2 ⟨hm, hpc, hd⟩] at hi
    all_goals have ht := Host.Outcome.next.inj (h.symm.trans hs)
    · exact .halted f hm hi ht
    · exact .waiting hm hi ht
    · exact .raised _ hm hi ht
    · exact .raised _ hm hi ht

/-! ## The instruction cycle (40_cycle.md R93–R95) -/

theorem decodeWord_of_decode {hi lo : Byte} {i : Instr} {rest : List Byte}
    (h : decode [hi, lo] = .ok (i, rest)) : decodeWord (wordOfBytes hi lo) = some i := by
  cases hd : decodeWord (wordOfBytes hi lo) with
  | some j =>
    have hj : j = i ∧ [] = rest := by simpa [decode, hd] using h
    rw [hj.1]
  | none => simp [decode, hd] at h

/-- The state the apply phase starts from, field by field. -/
theorem State.timerStep_beginCycle (s : State) :
    s.beginCycle.timerStep =
      { s with
        ports := s.nextInputs
        pending := s.pending.tail
        draws := if s.pending.isEmpty then s.draws + 1 else s.draws
        fbChanged := false
        dt := timerDown s.dt
        st := timerDown s.st
        toneStop := decide (s.st = 1) } := by
  simp [State.timerStep, State.beginCycle]

/-- Settles O8: the decoded bytes are what the step fetches. -/
theorem stepRunsTheDecodedInstruction : Obligations.StepRunsTheDecodedInstruction := by
  intro s i hm hpc _ hd
  have hi : s.fetched = some i := (s.fetched_eq_some i).2 ⟨hm, hpc, decodeWord_of_decode hd⟩
  rw [step_of_fetched hi, State.timerStep_beginCycle]
  rfl

/-! ## The halted core (40_cycle.md R98) -/

theorem step_of_halted {s : State} {f : FatalError} (hm : s.mode = .halted f) : step s = .next s.beginCycle := by
  rw [step, cycle, hm]

theorem State.iterate_beginCycle_mode (n : Nat) (s : State) : (State.beginCycle^[n] s).mode = s.mode := by
  induction n with
  | zero => rfl
  | succ n ih => rw [Function.iterate_succ_apply', State.beginCycle_mode, ih]

/-- Sampling the ports, however often, is all a halted core does; it touches no field of the core. -/
theorem State.sameCore_iterate_beginCycle (n : Nat) (s : State) : SameCore s (State.beginCycle^[n] s) := by
  induction n with
  | zero => exact ⟨rfl, rfl, rfl, rfl, rfl, rfl, rfl, rfl, rfl, rfl, rfl⟩
  | succ n ih =>
    rw [Function.iterate_succ_apply']
    exact ih

/-- Any number of cycles of a halted core in closed form. -/
theorem run_of_halted (n : Nat) {s : State} {f : FatalError} (hm : s.mode = .halted f) :
    Sys2Proof.core.run n s = .next (State.beginCycle^[n] s) := by
  induction n generalizing s with
  | zero => rfl
  | succ n ih =>
    calc Sys2Proof.core.run (n + 1) s
      _ = Sys2Proof.core.run n s.beginCycle := run_succ_of_next (M := Sys2Proof.core) (step_of_halted hm)
      _ = .next (State.beginCycle^[n] s.beginCycle) := ih hm

/-- Settles O12, from the closed form of a halted core's run. -/
theorem haltedCoreStaysHalted : Obligations.HaltedCoreStaysHalted := by
  intro n s f hm
  refine ⟨_, run_of_halted n hm, (State.iterate_beginCycle_mode n s).trans hm,
    State.sameCore_iterate_beginCycle n s, fun hn => ?_⟩
  obtain ⟨m, rfl⟩ := Nat.exists_eq_add_one.2 hn
  rw [Function.iterate_succ_apply']
  exact ⟨rfl, rfl⟩

/-! ## The wait cycle (40_cycle.md R92) -/

theorem step_of_awaitingKey {s : State} (hm : s.mode = .awaitingKey) :
    step s = .next s.beginCycle.waitCycle := by
  rw [step, cycle, hm]

theorem State.waitCycle_of_no_key {s : State} (h : s.ports.keyValid = false) : s.waitCycle = s := by
  simp [State.waitCycle, State.key, h]

theorem State.waitCycle_of_key {s : State} (h : s.ports.keyValid = true) :
    s.waitCycle = (s.writeV s.target (s.ports.keyCode.setWidth 8)).resumeFetch := by
  simp [State.waitCycle, State.key, h]

@[simp] theorem State.waitCycle_dt (s : State) : s.waitCycle.dt = s.dt := by rw [State.waitCycle_eq]
@[simp] theorem State.waitCycle_st (s : State) : s.waitCycle.st = s.st := by rw [State.waitCycle_eq]
@[simp] theorem State.waitCycle_toneStop (s : State) : s.waitCycle.toneStop = s.toneStop := by
  rw [State.waitCycle_eq]

/-- Settles O11, from the wait cycle without and with a key. -/
theorem waitCycleLooksForAKey : Obligations.WaitCycleLooksForAKey := by
  intro s hm
  refine ⟨fun hk => ⟨_, step_of_awaitingKey hm, ?_⟩, fun hk => ⟨_, step_of_awaitingKey hm, ?_⟩⟩
  · rw [State.waitCycle_of_no_key (s := s.beginCycle) hk]
    exact ⟨hm, s.sameCore_iterate_beginCycle 1, rfl, rfl⟩
  · rw [State.waitCycle_of_key (s := s.beginCycle) hk]
    refine ⟨rfl, ?_, fun z hz => by simp [hz], ⟨rfl, rfl, rfl, rfl, rfl, rfl, rfl, rfl, rfl, rfl, rfl⟩, rfl, rfl⟩
    rw [State.resumeFetch_readV, State.beginCycle_target, State.readV_writeV, if_pos rfl]
    exact BitVec.toNat_setWidth_of_le (by decide)

/-! ## The input-wait FSM (40_cycle.md R102) -/

/-- The apply phase keeps the run state or halts, unless it is Fx0A (46_keys.md R193). -/
theorem Effect.mode_cases {i : Instr} {s t : State} (h : Effect i s t) (hi : ∀ x, i ≠ .ldVxK x) :
    t.mode = s.mode ∨ ∃ f, t.mode = .halted f := by
  cases h with
  | raise f => exact .inr ⟨f, rfl⟩
  | awaitKey x hx => exact absurd hx (hi x)
  | store => exact .inl (by simp)
  | skip | jump | call | ret | regs | writeI | writeDt | writeSt | clear | draw => exact .inl rfl

/-- The apply phase writes the latch target in Fx0A only (10_state.md R33). -/
theorem exec_target {i : Instr} {s t : State} (h : exec i s = .next t) (hi : ∀ x, i ≠ .ldVxK x) :
    t.target = s.target := by
  obtain ⟨-, -, -, -, -, htarget, -⟩ := stateIsWrittenOnlyByItsInstructions i s t h
  exact htarget hi

/-- Settles O13, by the kind of cycle. -/
theorem runStateFollowsTheWaitFsm : Obligations.RunStateFollowsTheWaitFsm := by
  intro s t h
  cases nextState_of_step h with
  | halted f hm hn ht => simp [hm, ht]
  | waiting hm hn ht =>
    refine ⟨by simp [hm], fun _ hk => ?_, fun _ hk => ?_, by simp [hm], by simp [hm], by simp [hm]⟩
    · rw [ht, State.waitCycle_of_no_key (s := s.beginCycle) hk]
      exact ⟨hm, rfl⟩
    · rw [ht, State.waitCycle_of_key (s := s.beginCycle) hk]
      rfl
  | raised f hm hn ht => simp [hm, hn, ht]
  | ran i hm hi hex =>
    refine ⟨by simp [hm], by simp [hm], by simp [hm], fun _ x hx => ?_, fun _ hne => ?_, by simp [hi]⟩
    · obtain rfl := Option.some.inj (hi.symm.trans hx)
      obtain rfl := Host.Outcome.next.inj hex
      exact ⟨rfl, rfl, rfl⟩
    · have hne' : ∀ x, i ≠ .ldVxK x := fun x hx => hne x (hx ▸ hi)
      exact ⟨(exec_target hex hne').trans rfl, by simpa [hm] using (effect_of_exec hex).mode_cases hne'⟩

/-! ## The timers (40_cycle.md R94, 44_timers.md R170–R174) -/

/-- One decrement is the truncated subtraction of naturals. -/
theorem timerDown_toNat (v : Byte) : (timerDown v).toNat = v.toNat - 1 := by
  rw [timerDown]
  split
  · simp [*]
  · bv_omega

/-- Outside the cycles that decode, neither timer runs and `tone_stop` has fallen (40_cycle.md R94, R103). -/
theorem step_timers_of_not_fetched {s t : State} (h : step s = .next t) (hn : s.fetched = none) :
    t.dt = s.dt ∧ t.st = s.st ∧ t.toneStop = false := by
  cases nextState_of_step h with
  | halted f hm hn ht | waiting hm hn ht | raised f hm hn ht => simp [ht]
  | ran i hm hi hex => simp [hi] at hn

/-- In a cycle that decodes, what the timer step left stays, but for a timer the instruction itself writes. -/
theorem step_timers_of_fetched {s t : State} {i : Instr} (h : step s = .next t) (hi : s.fetched = some i) :
    ((∀ x, i ≠ .ldDtVx x) → t.dt = timerDown s.dt) ∧ ((∀ x, i ≠ .ldStVx x) → t.st = timerDown s.st) ∧
    t.toneStop = decide (s.st = 1) := by
  obtain ⟨-, -, -, hdt, hst, -, -, -, htone, -⟩ :=
    stateIsWrittenOnlyByItsInstructions i _ t ((step_of_fetched hi).symm.trans h)
  rw [State.timerStep_beginCycle] at htone
  exact ⟨hdt, hst, htone⟩

/-- Settles O14: the frame of the apply phase after the timer step, and the two instructions that write a timer. -/
theorem timersStepOncePerDecodedCycle : Obligations.TimersStepOncePerDecodedCycle := by
  intro s t h
  refine ⟨fun hn => ?_, fun i hi hne => ?_, fun x hi => ?_, fun i hi hne => ?_, fun x hi => ?_⟩
  · obtain ⟨hdt, hst, -⟩ := step_timers_of_not_fetched h hn
    exact ⟨hdt, hst⟩
  · obtain ⟨hdt, -, -⟩ := step_timers_of_fetched h hi
    rw [hdt hne, timerDown_toNat]
  · obtain rfl := Host.Outcome.next.inj ((step_of_fetched hi).symm.trans h)
    rfl
  · obtain ⟨-, hst, -⟩ := step_timers_of_fetched h hi
    rw [hst hne, timerDown_toNat]
  · obtain rfl := Host.Outcome.next.inj ((step_of_fetched hi).symm.trans h)
    rfl

/-- Settles O15: only a cycle that decodes steps the timers, and the apply phase keeps `tone_stop`. -/
theorem toneStopExactlyAtOneToZero : Obligations.ToneStopExactlyAtOneToZero := by
  intro s t h
  cases hi : s.fetched with
  | none =>
    obtain ⟨-, -, htone⟩ := step_timers_of_not_fetched h hi
    simp [htone]
  | some i =>
    obtain ⟨-, -, htone⟩ := step_timers_of_fetched h hi
    simp [htone]

/-! ## The output ports (40_cycle.md R90, 60_exceptions.md R221) -/

theorem State.halted_eq_true_iff (s : State) : s.halted = true ↔ ∃ f, s.mode = .halted f := by
  rw [State.halted]
  cases s.mode <;> simp

theorem State.faultKind_of_halted {s : State} {f : FatalError} (hm : s.mode = .halted f) : s.faultKind = f.kind := by
  rw [State.faultKind, hm]

theorem State.faultValue_of_halted {s : State} {f : FatalError} (hm : s.mode = .halted f) :
    s.faultValue = f.value := by
  rw [State.faultValue, hm]

/-- A core that is not halted shows no fault (60_exceptions.md R221). -/
theorem State.fault_of_not_halted {s : State} (h : s.halted = false) : s.faultKind = 0 ∧ s.faultValue = 0 := by
  rw [State.faultKind, State.faultValue]
  cases hm : s.mode with
  | fetching | awaitingKey => exact ⟨rfl, rfl⟩
  | halted f => simp [s.halted_eq_true_iff.2 ⟨f, hm⟩] at h

/-- Settles O58, port by port. -/
theorem outputPortsShowTheRunState : Obligations.OutputPortsShowTheRunState := by
  intro s
  refine ⟨by simp [State.waiting], s.halted_eq_true_iff, State.fault_of_not_halted, fun w hm => ?_,
    fun r v hm => ?_, fun c r => dif_pos ⟨r.isLt, c.isLt⟩⟩
  · rw [State.faultKind_of_halted hm, State.faultValue_of_halted hm]
    exact ⟨rfl, BitVec.toNat_setWidth_of_le (by decide)⟩
  · rw [State.faultKind_of_halted hm, State.faultValue_of_halted hm]
    cases r <;> simp [FatalError.kind, FatalError.value, OobReason.code]

end Sys2Proof.Machine
end

section
/-! The ALU (41_alu.md): what an instruction that writes general registers alone leaves unchanged, the ALU's two kinds
of write, and the results and flags in arithmetic. -/

namespace Sys2Proof.Machine

/-! ## Writes of general registers -/

/-- A change of general registers alone, followed by the PC advance. -/
theorem RegisterFrame.ofRegs {s t : State} {changed : RegIx → Prop} (ht : t = { s with v := t.v })
    (hv : ∀ z, ¬ changed z → t.readV z = s.readV z) : RegisterFrame s t.advance changed := by
  refine ⟨?_, hv, ?_⟩ <;> rw [ht]
  · rfl
  · exact fun _ => rfl

theorem State.registerFrame_writeV (s : State) (x : RegIx) (b : Byte) :
    RegisterFrame s (s.writeV x b).advance (· = x) :=
  .ofRegs rfl fun z hz => by rw [State.readV_writeV, if_neg hz]

/-- The apply phase of an instruction whose one write is `V[x] <- b`. -/
theorem exec_of_writeV {i : Instr} {s : State} {x : RegIx} {b : Byte} {P : Byte → Prop}
    (hi : exec i s = .next (s.writeV x b).advance) (hb : P b) :
    ∃ t, exec i s = .next t ∧ P (t.readV x) ∧ t.pc = s.pc + 2 ∧ RegisterFrame s t (· = x) :=
  ⟨_, hi, by simpa using hb, rfl, s.registerFrame_writeV x b⟩

/-! ## The logic operations (41_alu.md R122–R124) -/

@[simp] theorem State.writeLogic_pc (s : State) (x : RegIx) (r : Byte) : (s.writeLogic x r).pc = s.pc := by
  rw [State.writeLogic_eq]

theorem State.registerFrame_writeLogic (s : State) (x : RegIx) (r : Byte) :
    RegisterFrame s (s.writeLogic x r).advance (fun z => z = x ∨ (z = vf ∧ s.cfg.logicOpVf = .zero)) :=
  .ofRegs (s.writeLogic_eq x r) fun z hz => by
    obtain ⟨hx, hvf⟩ := not_or.1 hz
    rw [State.readV_writeLogic, if_neg hvf, if_neg hx]

theorem State.readV_writeLogic_vf {s : State} (x : RegIx) (r : Byte) (h : s.cfg.logicOpVf = .zero) :
    (s.writeLogic x r).readV vf = 0 := by
  rw [State.readV_writeLogic, if_pos ⟨rfl, h⟩]

theorem State.readV_writeLogic_self {s : State} {x : RegIx} (r : Byte)
    (h : x ≠ vf ∨ s.cfg.logicOpVf = .unchanged) : (s.writeLogic x r).readV x = r := by
  have hkeep : ¬ (x = vf ∧ s.cfg.logicOpVf = .zero) := by
    rintro ⟨hx, hz⟩
    simp [hx, hz] at h
  rw [State.readV_writeLogic, if_neg hkeep, if_pos rfl]

/-- The apply phase of OR, AND or XOR, whose result has the bits `bit`. -/
theorem exec_of_writeLogic {i : Instr} {s : State} {x : RegIx} {r : Byte} {bit : Nat → Bool}
    (hi : exec i s = .next (s.writeLogic x r).advance) (hr : ∀ k, r.getLsbD k = bit k) :
    ∃ t, exec i s = .next t ∧ t.pc = s.pc + 2 ∧
      RegisterFrame s t (fun z => z = x ∨ (z = vf ∧ s.cfg.logicOpVf = .zero)) ∧
      (s.cfg.logicOpVf = .zero → t.readV vf = 0) ∧
      ((x ≠ vf ∨ s.cfg.logicOpVf = .unchanged) → ∀ k, (t.readV x).getLsbD k = bit k) := by
  refine ⟨_, hi, by simp, s.registerFrame_writeLogic x r, State.readV_writeLogic_vf x r, fun h k => ?_⟩
  rw [State.advance_readV, State.readV_writeLogic_self r h, hr]

/-! ## The result and the flag (41_alu.md R120) -/

@[simp] theorem State.writeResultAndFlag_pc (s : State) (x : RegIx) (r f : Byte) :
    (s.writeResultAndFlag x r f).pc = s.pc := by
  rw [State.writeResultAndFlag_eq]

theorem State.registerFrame_writeResultAndFlag (s : State) (x : RegIx) (r f : Byte) :
    RegisterFrame s (s.writeResultAndFlag x r f).advance (fun z => z = x ∨ z = vf) :=
  .ofRegs (s.writeResultAndFlag_eq x r f) fun z hz => by
    obtain ⟨hx, hvf⟩ := not_or.1 hz
    rw [State.readV_writeResultAndFlag, if_neg (fun h => hx h.1), if_neg hvf]

/-- The two writes leave the result and the flag as `ResultAndFlag` says, in either order. -/
theorem State.resultAndFlag_writeResultAndFlag (s : State) (x : RegIx) (r f : Byte) :
    ResultAndFlag s (s.writeResultAndFlag x r f).advance x r f := by
  simp only [ResultAndFlag, State.advance_readV, State.readV_writeResultAndFlag]
  refine ⟨fun hx => ⟨?_, ?_⟩, ?_, ?_⟩
  · simp [hx]
  · simp [Ne.symm hx]
  · rintro rfl hfirst
    simp [hfirst]
  · rintro rfl hlast
    simp [hlast]

/-- The apply phase of an instruction that writes a result to `V[x]` and a flag to VF. -/
theorem exec_of_writeResultAndFlag {i : Instr} {s : State} {x : RegIx} {r f r' f' : Byte}
    (hi : exec i s = .next (s.writeResultAndFlag x r f).advance) (hr : r = r') (hf : f = f') :
    ∃ t, exec i s = .next t ∧ t.pc = s.pc + 2 ∧ RegisterFrame s t (fun z => z = x ∨ z = vf) ∧
      ResultAndFlag s t x r' f' := by
  subst hr hf
  exact ⟨_, hi, by simp, s.registerFrame_writeResultAndFlag x r f, s.resultAndFlag_writeResultAndFlag x r f⟩

/-! ## Results and flags in arithmetic (41_alu.md R125–R129) -/

theorem flagByte_decide (p : Prop) [Decidable p] : flagByte (decide p) = if p then 1 else 0 := by
  simp [flagByte]

theorem carryFlag_eq (a b : Byte) : carryFlag a b = if 255 < a.toNat + b.toNat then 1 else 0 :=
  flagByte_decide _

theorem greaterFlag_eq (a b : Byte) : greaterFlag a b = if b.toNat < a.toNat then 1 else 0 :=
  flagByte_decide _

theorem sub_eq_ofInt (a b : Byte) : a - b = BitVec.ofInt 8 (a.toNat - b.toNat) := by
  bv_omega

theorem shiftRight_one_eq_ofNat (a : Byte) : a >>> 1 = BitVec.ofNat 8 (a.toNat / 2) := by
  bv_omega

theorem shiftLeft_one_eq_ofNat (a : Byte) : a <<< 1 = BitVec.ofNat 8 (2 * a.toNat) := by
  bv_omega

theorem lowBitFlag_eq (a : Byte) : lowBitFlag a = BitVec.ofNat 8 (a.toNat % 2) := by
  have hbit : (a &&& 1).toNat = a.toNat % 2 := Nat.and_one_is_mod _
  rw [lowBitFlag, ← hbit, BitVec.ofNat_toNat, BitVec.setWidth_eq]

/-- Bit 7 is the low bit of the byte shifted right by seven. -/
theorem highBitFlag_eq (a : Byte) : highBitFlag a = BitVec.ofNat 8 (a.toNat / 128) := by
  rw [highBitFlag, ← lowBitFlag, lowBitFlag_eq]
  bv_omega

/-! ## The instructions -/

/-- Settles O32: its one write is the copy. -/
theorem registerCopyWritesItsRegister : Obligations.RegisterCopyWritesItsRegister :=
  fun _ y s => exec_of_writeV (P := (· = s.readV y)) rfl rfl

/-- Settles O33, each operation by its bits. -/
theorem logicOperationsByTheParameter : Obligations.LogicOperationsByTheParameter :=
  fun _ _ _ => ⟨exec_of_writeLogic rfl fun _ => BitVec.getLsbD_or, exec_of_writeLogic rfl fun _ => BitVec.getLsbD_and,
    exec_of_writeLogic rfl fun _ => BitVec.getLsbD_xor⟩

/-- Settles O34, from the sum and the carry in arithmetic. -/
theorem addSetsTheCarry : Obligations.AddSetsTheCarry :=
  fun _ _ _ => exec_of_writeResultAndFlag rfl (BitVec.add_def _ _) (carryFlag_eq _ _)

/-- Settles O35: SUBN has the difference and the flag of SUB on the operands exchanged. -/
theorem subtractSetsTheStrictFlag : Obligations.SubtractSetsTheStrictFlag :=
  fun _ _ _ => ⟨exec_of_writeResultAndFlag rfl (sub_eq_ofInt _ _) (greaterFlag_eq _ _),
    exec_of_writeResultAndFlag rfl (sub_eq_ofInt _ _) (greaterFlag_eq _ _)⟩

/-- Settles O36, from the halving and the doubling and the bits they shift out, in arithmetic. -/
theorem shiftsSetTheBitShiftedOut : Obligations.ShiftsSetTheBitShiftedOut :=
  fun _ _ => ⟨exec_of_writeResultAndFlag rfl (shiftRight_one_eq_ofNat _) (lowBitFlag_eq _),
    exec_of_writeResultAndFlag rfl (shiftLeft_one_eq_ofNat _) (highBitFlag_eq _)⟩

/-- Settles O37: its one write is the sum. -/
theorem addImmediateWrapsWithoutFlag : Obligations.AddImmediateWrapsWithoutFlag :=
  fun x kk s => exec_of_writeV (P := fun b => b.toNat = ((s.readV x).toNat + kk.toNat) % 256) rfl
    (BitVec.toNat_add _ _)

/-- Settles O38: its one write is the masked sample. -/
theorem randomByteIsMasked : Obligations.RandomByteIsMasked :=
  fun _ kk s => exec_of_writeV (P := fun b => ∀ k, b.getLsbD k = (s.ports.rnd.getLsbD k && kk.getLsbD k)) rfl
    fun _ => BitVec.getLsbD_and

end Sys2Proof.Machine
end

section
/-! Control transfer (42_control.md): what CALL and RET do at each depth of the stack, the call and its return together,
and the two jumps. -/

namespace Sys2Proof.Machine

/-! ## The call stack (42_control.md R141, R142) -/

theorem exec_call_of_free_slot {s : State} (nnn : Word) (h : s.sp.toNat < 16) :
    exec (.call nnn) s = .next ((s.push (s.pc + 2)).writePc nnn) := by
  rw [exec, execCall, s.callFault_eq_none.2 h, State.unlessFault_none]

theorem exec_call_of_full_stack {s : State} (nnn : Word) (h : 16 ≤ s.sp.toNat) :
    exec (.call nnn) s = .next (s.raise (.outOfBounds .stackOverflow (s.sp.setWidth 18))) := by
  rw [exec, execCall, State.callFault, if_pos h, State.unlessFault_some]

theorem exec_ret_of_empty_stack {s : State} (h : s.sp = 0) :
    exec .ret s = .next (s.raise (.outOfBounds .stackUnderflow 0)) :=
  if_pos h

/-- A return with a pending call pops slot `SP - 1`. -/
theorem exec_ret_of_pending {s : State} (k : Fin 16) (h : s.sp.toNat = k.val + 1) :
    exec .ret s = .next (s.popTo s.stack[k.val]) := by
  rcases execRet_cases s with ⟨h0, -⟩ | ⟨-, hk, hret⟩ | ⟨hlt, -⟩
  · simp [h0] at h
  · simp only [h, Nat.add_sub_cancel] at hret
    exact hret
  · omega

/-- With `SP > 16` the slot does not exist (log 6). -/
theorem exec_ret_of_absent_slot {s : State} (h : 16 < s.sp.toNat) :
    exec .ret s = .fault (.stackSlotAbsent (s.sp.toNat - 1)) := by
  rcases execRet_cases s with ⟨h0, -⟩ | ⟨-, hk, -⟩ | ⟨-, hret⟩
  · simp [h0] at h
  · omega
  · exact hret

theorem State.push_sp_toNat {s : State} (a : Word) (h : s.sp.toNat < 16) :
    (s.push a).sp.toNat = s.sp.toNat + 1 := by
  rw [State.push_sp]
  bv_omega

theorem State.push_slot (s : State) (a : Word) (j : Fin 16) :
    (s.push a).stack[j.val] = if s.sp.toNat = j.val then a else s.stack[j.val] := by
  simp only [State.push_stack, Vector.getElem_setIfInBounds]

/-- Settles O43: the return pops the slot the call pushed. -/
theorem returnResumesAfterTheCall : Obligations.ReturnResumesAfterTheCall := by
  intro nnn s t u hsp hcall hstack hptr
  obtain rfl := Host.Outcome.next.inj ((exec_call_of_free_slot nnn hsp).symm.trans hcall)
  rw [State.writePc_stack] at hstack
  rw [State.writePc_sp] at hptr
  have hpending : u.sp.toNat = s.sp.toNat + 1 := by rw [hptr, State.push_sp_toNat _ hsp]
  refine ⟨_, exec_ret_of_pending ⟨s.sp.toNat, hsp⟩ hpending, ?_, ?_, ?_⟩
  · simp [hstack]
  · simp [hptr]
  · exact hstack

/-- Settles O41, by whether a slot is free. -/
theorem callPushesTheReturnAddress : Obligations.CallPushesTheReturnAddress := by
  intro nnn s
  refine ⟨fun k hk => ?_, exec_call_of_full_stack nnn⟩
  have hsp : s.sp.toNat < 16 := by omega
  refine ⟨_, exec_call_of_free_slot nnn hsp, rfl, ?_, ?_, fun j hj => ?_, rfl, fun _ => rfl⟩
  · rw [State.writePc_sp, State.push_sp_toNat _ hsp, hk]
  · exact (s.push_slot _ k).trans (if_pos hk)
  · exact (s.push_slot _ j).trans (if_neg fun h => hj (Fin.ext (h.symm.trans hk)))

/-- Settles O42, by the depth of the stack. -/
theorem returnPopsIntoThePc : Obligations.ReturnPopsIntoThePc := by
  intro s
  refine ⟨fun k hk => ?_, exec_ret_of_empty_stack, exec_ret_of_absent_slot⟩
  refine ⟨_, exec_ret_of_pending k hk, rfl, ?_, rfl, fun _ => rfl⟩
  rw [State.popTo_sp]
  bv_omega

/-! ## The jumps (42_control.md R143, R144) -/

/-- A word that passes a row's test decodes to that row's instruction. -/
theorem decodeWord_of_row {r : OpcodeRow} {w : Word} (hr : r ∈ opcodeMap) (hw : w &&& r.mask = r.bits) :
    decodeWord w = some (r.make w) :=
  (decodeWord_eq_some_iff w _).2 ⟨r, hr, (r.hits_iff w).2 hw, rfl⟩

/-- Settles O39: row 24 of the opcode map, the one write, and the fetch at the target. -/
theorem jumpSetsOnlyThePc : Obligations.JumpSetsOnlyThePc := by
  refine ⟨fun w hw => decodeWord_of_row (r := opcodeMap[24]) (List.getElem_mem _) hw, fun nnn s => ?_⟩
  refine ⟨s.writePc nnn, rfl, rfl, fun _ => rfl, fun hm hpc => ?_⟩
  exact ⟨_, step_of_fetch_outside (s := s.writePc nnn) hm hpc, State.raise_mode _ _⟩

/-- An address operand and a byte sum without a carry out of 16 bits (42_control.md R144). -/
theorem address_add_byte_toNat {nnn : Word} (b : Byte) (h : nnn.toNat < 4096) :
    (nnn + b.setWidth 16).toNat = nnn.toNat + b.toNat := by
  bv_omega

/-- Settles O40: the one write is the sum, and the sum is exact. -/
theorem jumpPlusAddsVZeroExactly : Obligations.JumpPlusAddsVZeroExactly := fun nnn s hwf =>
  ⟨_, rfl, address_add_byte_toNat (s.readV 0) ((addressWf_iff nnn).1 hwf), rfl, fun _ => rfl⟩

end Sys2Proof.Machine
end

section
/-! Register and memory transfer (43_transfer.md): the loads of one register and of `I`, the check of the addresses from
`I` on, and what Fx33, Fx55 and Fx65 do when it passes and when it fails. -/

namespace Sys2Proof.Machine

/-! ## Loads of one register and of `I` (43_transfer.md R151–R154) -/

/-- Settles O31: row 28 of the opcode map, and the one write. -/
theorem loadImmediateWritesItsRegister : Obligations.LoadImmediateWritesItsRegister :=
  ⟨fun _ hw => decodeWord_of_row (r := opcodeMap[28]) (List.getElem_mem _) hw,
    fun _ kk _ => exec_of_writeV (P := (· = kk)) rfl rfl⟩

/-- The apply phase of an instruction whose one write is `I <- a`. -/
theorem exec_of_writeI {i : Instr} {s : State} {a : Word} {P : Word → Prop}
    (hi : exec i s = .next (s.writeI a).advance) (ha : P a) :
    ∃ t, exec i s = .next t ∧ P t.i ∧ t = { s with i := t.i, pc := s.pc + 2 } ∧ SameMemory s t :=
  ⟨_, hi, ha, rfl, fun _ => rfl⟩

theorem address_add_byte_toNat_mod (a : Word) (b : Byte) :
    (a + b.setWidth 16).toNat = (a.toNat + b.toNat) % 65536 := by
  bv_omega

/-- The address of a glyph needs no mask: `5 * 255` fits in 16 bits (43_transfer.md R154). -/
theorem five_mul_byte_toNat (b : Byte) : (5 * b.setWidth 16 : Word).toNat = 5 * b.toNat := by
  bv_omega

/-- Settles O44: each has one write, and the sum and the product are as stated in arithmetic. -/
theorem addressRegisterInstructions : Obligations.AddressRegisterInstructions := fun nnn x s =>
  ⟨exec_of_writeI (P := (· = nnn)) rfl rfl,
    exec_of_writeI (P := fun a => a.toNat = (s.i.toNat + (s.readV x).toNat) % 65536) rfl
      (address_add_byte_toNat_mod _ _),
    exec_of_writeI (P := fun a => a.toNat = 5 * (s.readV x).toNat) rfl (five_mul_byte_toNat _)⟩

/-! ## The check of the addresses from `I` on (43_transfer.md R150, 60_exceptions.md R224) -/

/-- The first address from `I` on that fails decides. -/
theorem firstFault_effectiveAddresses {check : Nat → Option FatalError} {s : State} {n k : Nat} {f : FatalError}
    (hk : k < n) (hbefore : ∀ j, j < k → check (s.i.toNat + j) = none) (hat : check (s.i.toNat + k) = some f) :
    firstFault check (s.effectiveAddresses n) = some f := by
  obtain ⟨m, rfl⟩ := Nat.exists_eq_add_of_lt hk
  have hnone : (List.range k).findSome? (check ∘ (s.i.toNat + ·)) = none := by
    simpa using hbefore
  rw [firstFault, State.effectiveAddresses, List.findSome?_map, Nat.add_assoc, List.range_add,
    List.findSome?_append, hnone, List.range_succ_eq_map]
  simp [hat]

theorem readFault_of_outside {a : Nat} (h : 4096 ≤ a) :
    readFault a = some (.outOfBounds .memRead (BitVec.ofNat 18 a)) :=
  if_pos h

theorem writeFault_of_outside (cfg : Config) {a : Nat} (h : 4096 ≤ a) :
    writeFault cfg a = some (.outOfBounds .memWrite (BitVec.ofNat 18 a)) :=
  if_pos h

theorem writeFault_of_font {cfg : Config} {a : Nat} (h : a < 80) (hp : cfg.fontWritePolicy = .fault) :
    writeFault cfg a = some (.outOfBounds .fontWrite (BitVec.ofNat 18 a)) := by
  rw [writeFault, if_neg (by omega), if_pos ⟨h, hp⟩]

theorem State.storeFault_of_writable {s : State} {n : Nat} (h : ∀ k, k < n → WritableAt s.cfg (s.i.toNat + k)) :
    s.storeFault n = none := by
  rw [State.storeFault, firstFault_eq_none]
  intro a ha
  obtain ⟨hlo, hhi⟩ := (mem_effectiveAddresses s n a).1 ha
  obtain ⟨k, rfl⟩ := Nat.exists_eq_add_of_le hlo
  exact (writeFault_eq_none s.cfg _).2 (h k (by omega))

/-! ## The store at `I` (43_transfer.md R155, R156) -/

section

variable {i : Instr} {s : State} {bs : List Byte}

/-- The apply phase of an instruction that stores the bytes `bs` at `I` on, all of them writable. -/
theorem exec_of_storeAtI (hi : exec i s = .next (s.storeAtI bs))
    (hw : ∀ k, k < bs.length → WritableAt s.cfg (s.i.toNat + k)) :
    ∃ t, exec i s = .next t ∧ (∀ k (hk : k < bs.length), t.peek (s.i.toNat + k) = bs[k]) ∧
      SameMemoryOutside s t s.i.toNat bs.length ∧ t = { s with mem := t.mem, pc := s.pc + 2 } := by
  rw [State.storeAtI, State.storeFault_of_writable hw, State.unlessFault_none] at hi
  refine ⟨_, hi, fun k hk => ?_, fun b hb => ?_, ?_⟩
  · simp [State.peek_pokeAll, hk]
  · rw [State.advance_peek, State.peek_pokeAll, dif_neg (by omega)]
  · rw [State.pokeAll_eq]; rfl

/-- The first address the check refuses halts the core before any write. -/
theorem exec_of_storeAtI_fault {k : Nat} {f : FatalError} (hi : exec i s = .next (s.storeAtI bs))
    (hk : k < bs.length) (hbefore : ∀ j, j < k → WritableAt s.cfg (s.i.toNat + j))
    (hat : writeFault s.cfg (s.i.toNat + k) = some f) : exec i s = .next (s.raise f) := by
  have hfault : s.storeFault bs.length = some f :=
    firstFault_effectiveAddresses hk (fun j hj => (writeFault_eq_none s.cfg _).2 (hbefore j hj)) hat
  rw [hi, State.storeAtI, hfault, State.unlessFault_some]

end

theorem byte_ofNat_toNat {n : Nat} (h : n < 256) : (BitVec.ofNat 8 n).toNat = n :=
  (BitVec.toNat_ofNat n 8).trans (Nat.mod_eq_of_lt h)

/-- Settles O45: the store of the three digits, each of which fits in a byte. -/
theorem bcdStoresThreeDigits : Obligations.BcdStoresThreeDigits := by
  intro x s hw
  obtain ⟨t, ht, hpeek, houtside, hframe⟩ :=
    exec_of_storeAtI (i := .ldBVx x) (bs := bcdDigits (s.readV x)) rfl hw
  have hbyte := (s.readV x).isLt
  refine ⟨t, ht, ?_, ?_, ?_, houtside, hframe⟩
  · exact (congrArg BitVec.toNat (hpeek 0 (by simp))).trans (byte_ofNat_toNat (by omega))
  · exact (congrArg BitVec.toNat (hpeek 1 (by simp))).trans (byte_ofNat_toNat (by omega))
  · exact (congrArg BitVec.toNat (hpeek 2 (by simp))).trans (byte_ofNat_toNat (by omega))

theorem State.lt_dumpBytes_length_iff (s : State) (x : RegIx) (k : Nat) :
    k < (s.dumpBytes x).length ↔ k ≤ x.val := by
  rw [State.dumpBytes_length, Nat.lt_succ_iff]

/-- Settles O46: the store of the group's registers. -/
theorem registerDumpStoresItsGroup : Obligations.RegisterDumpStoresItsGroup := by
  intro x s hw
  obtain ⟨t, ht, hpeek, houtside, hframe⟩ := exec_of_storeAtI (i := .ldMemVx x) (bs := s.dumpBytes x) rfl
    fun k hk => hw k ((s.lt_dumpBytes_length_iff x k).1 hk)
  rw [State.dumpBytes_length] at houtside
  refine ⟨t, ht, fun k hk => ?_, houtside, hframe⟩
  rw [hpeek k.val ((s.lt_dumpBytes_length_iff x k).2 hk), State.dumpBytes_getElem]

/-! ## The group load (43_transfer.md R157) -/

/-- Settles O47: the check passes and the load changes general registers alone. -/
theorem registerLoadReadsItsGroup : Obligations.RegisterLoadReadsItsGroup := by
  intro x s hin
  have hok : s.loadFault (x.val + 1) = none := (s.loadFault_eq_none _).2 (.inr hin)
  refine ⟨(s.loadRegs x).advance, ?_, fun k hk => ?_, ?_, .ofRegs (s.loadRegs_eq x) fun z hz => ?_⟩
  · rw [exec, execLdVxMem, hok, State.unlessFault_none]
  · rw [State.advance_readV, State.readV_loadRegs, if_pos hk]
  · rw [State.advance_pc, State.loadRegs_eq]
  · rw [State.readV_loadRegs, if_neg hz]

/-- Settles O48: the load reads back the bytes the dump stored. -/
theorem dumpThenLoadRestoresTheRegisters : Obligations.DumpThenLoadRestoresTheRegisters := by
  intro x s t u hw hdump hmem hui hcfg
  obtain ⟨t', ht', hstored, -, hframe⟩ := registerDumpStoresItsGroup x s hw
  obtain rfl : t' = t := Host.Outcome.next.inj (ht'.symm.trans hdump)
  have hpeek : u.peek = t'.peek := by
    funext a
    rw [State.peek, State.peek, hmem, hcfg, hframe]
  obtain ⟨hin, -⟩ := hw x.val le_rfl
  obtain ⟨r, hr, hloaded, -⟩ := registerLoadReadsItsGroup x u (by rwa [hui])
  exact ⟨r, hr, fun k hk => by rw [hloaded k hk, hui, hpeek, hstored k hk]⟩

/-! ## The first failing address (43_transfer.md R150) -/

theorem exec_ldVxMem_fault {x : RegIx} {s : State} {k : Nat} (hk : k ≤ x.val)
    (hbefore : ∀ j, j < k → s.i.toNat + j < 4096) (hat : 4096 ≤ s.i.toNat + k) :
    exec (.ldVxMem x) s = .next (s.raise (.outOfBounds .memRead (BitVec.ofNat 18 (s.i.toNat + k)))) := by
  have hfault : s.loadFault (x.val + 1) = some (.outOfBounds .memRead (BitVec.ofNat 18 (s.i.toNat + k))) :=
    firstFault_effectiveAddresses (by omega) (fun j hj => (readFault_eq_none _).2 (hbefore j hj))
      (readFault_of_outside hat)
  rw [exec, execLdVxMem, hfault, State.unlessFault_some]

/-- Settles O49, by the kind of access and the reason it fails. -/
theorem transferTakesTheFirstFailingAddress : Obligations.TransferTakesTheFirstFailingAddress := by
  intro x s k
  have hlen : k ≤ x.val → k < (s.dumpBytes x).length := (s.lt_dumpBytes_length_iff x k).2
  refine ⟨fun hk hbefore => ⟨fun hat => ?_, fun hat hp => ?_⟩,
    fun hk hbefore => ⟨fun hat => ?_, fun hat hp => ?_⟩, exec_ldVxMem_fault⟩
  · exact exec_of_storeAtI_fault (bs := bcdDigits (s.readV x)) rfl hk hbefore (writeFault_of_outside _ hat)
  · exact exec_of_storeAtI_fault (bs := bcdDigits (s.readV x)) rfl hk hbefore (writeFault_of_font hat hp)
  · exact exec_of_storeAtI_fault (bs := s.dumpBytes x) rfl (hlen hk) hbefore
      (writeFault_of_outside _ hat)
  · exact exec_of_storeAtI_fault (bs := s.dumpBytes x) rfl (hlen hk) hbefore
      (writeFault_of_font hat hp)

end Sys2Proof.Machine
end

section
/-! Timer access (44_timers.md): Fx07 is a register load of `DT`; Fx15 and Fx18 each change one timer and `PC`. -/

namespace Sys2Proof.Machine

/-- Fx15 (44_timers.md R172): its one write is `DT`. -/
theorem exec_ldDtVx (x : RegIx) (s : State) :
    exec (.ldDtVx x) s = .next { s with dt := s.readV x, pc := s.pc + 2 } := rfl

/-- Fx18 (44_timers.md R173): its one write is `ST`; `toneStop` stays as the timer step left it (D18). -/
theorem exec_ldStVx (x : RegIx) (s : State) :
    exec (.ldStVx x) s = .next { s with st := s.readV x, pc := s.pc + 2 } := rfl

/-- Settles O50, from the one write of each of the three. -/
theorem timerAccessInstructions : Obligations.TimerAccessInstructions := fun x s =>
  ⟨exec_of_writeV (P := (· = s.dt)) rfl rfl,
    ⟨_, exec_ldDtVx x s, rfl, fun _ => rfl⟩,
    ⟨_, exec_ldStVx x s, rfl, fun _ => rfl⟩⟩

end Sys2Proof.Machine
end

section
/-! Display (45_display.md): which cycles write the framebuffer and report a change, the clear, and what a draw does
when it fits and when it does not. -/

namespace Sys2Proof.Machine

/-! ## The write detector (45_display.md R180, 40_cycle.md R97) -/

@[simp] theorem State.drawn_mode (s : State) (ps : List (Nat × Nat)) : (s.drawn ps).mode = s.mode := rfl
@[simp] theorem State.drawn_fbChanged (s : State) (ps : List (Nat × Nat)) : (s.drawn ps).fbChanged = true := rfl

@[simp] theorem State.waitCycle_fb (s : State) : s.waitCycle.fb = s.fb := by rw [State.waitCycle_eq]
@[simp] theorem State.waitCycle_fbChanged (s : State) : s.waitCycle.fbChanged = s.fbChanged := by
  rw [State.waitCycle_eq]

/-- A cycle that runs no instruction writes no cell and reports no change. -/
theorem step_fb_of_not_fetched {s t : State} (h : step s = .next t) (hn : s.fetched = none) :
    t.fb = s.fb ∧ t.fbChanged = false := by
  cases nextState_of_step h with
  | halted f hm hn ht | waiting hm hn ht | raised f hm hn ht => simp [ht]
  | ran i hm hi hex => simp [hi] at hn

/-- The apply phase raises `fb_changed` in 00E0 and Dxyn only. -/
theorem Effect.fbChanged_eq_false {i : Instr} {s t : State} (h : Effect i s t) (hs : s.fbChanged = false)
    (hcls : i ≠ .cls) (hdrw : ∀ x y n, i ≠ .drw x y n) : t.fbChanged = false := by
  cases h with
  | raise f => rfl
  | clear hi => exact absurd hi hcls
  | draw x y n hi => exact absurd hi (hdrw x y n)
  | store => simpa using hs
  | skip | jump | call | ret | regs | writeI | writeDt | writeSt | awaitKey => exact hs

/-- A clear or a draw that raises no fatal error reports a change, and one that raises one reports none. -/
theorem exec_fbChanged_iff {i : Instr} {s t : State} (h : exec i s = .next t) (hm : s.mode = .fetching)
    (hi : i = .cls ∨ ∃ x y n, i = .drw x y n) : t.fbChanged = true ↔ t.halted = false := by
  rcases hi with rfl | ⟨x, y, n, rfl⟩ <;> have ht := Host.Outcome.next.inj h
  · simp [← ht, State.halted, hm]
  · rcases s.unlessFault_cases (s.drawn (s.drawCells x y n.val)).advance (s.drawFault x y n.val)
      with ⟨f, -, hu⟩ | ⟨-, hu⟩
    · simp [← ht, hu, State.halted]
    · simp [← ht, hu, State.halted, hm]

/-- Settles O16, by what the cycle runs: nothing, a clear or a draw, or another instruction. -/
theorem onlyClearAndDrawReportAChange : Obligations.OnlyClearAndDrawReportAChange := by
  intro s t h
  cases hi : s.fetched with
  | none =>
    obtain ⟨hfb, hch⟩ := step_fb_of_not_fetched h hi
    simp [hfb, hch]
  | some i =>
    have hex := (step_of_fetched hi).symm.trans h
    obtain ⟨-, -, -, -, -, -, hmem, hfb, -⟩ := stateIsWrittenOnlyByItsInstructions i _ t hex
    by_cases hw : i = .cls ∨ ∃ x y n, i = .drw x y n
    · have hiff := exec_fbChanged_iff hex ((s.fetched_eq_some i).1 hi).1 hw
      rcases hw with rfl | ⟨x, y, n, rfl⟩ <;>
        exact ⟨by simpa using hiff, by simp, fun _ => hmem (by simp) (by simp)⟩
    · obtain ⟨hcls, hdrw⟩ := not_or.1 hw
      simp only [not_exists] at hdrw
      have hch := (effect_of_exec hex).fbChanged_eq_false rfl hcls hdrw
      simpa [hch, hcls, hdrw] using hfb hcls hdrw

/-! ## The clear (45_display.md R181) -/

/-- Settles O54: the word has no operand, and the one write is the blank framebuffer. -/
theorem clearScreenClearsEveryCell : Obligations.ClearScreenClearsEveryCell := by
  refine ⟨fun w => ⟨fun h => (encode_of_decodeWord h).symm, ?_⟩, fun s => ?_⟩
  · rintro rfl
    exact decodeWord_encode .cls rfl
  · exact ⟨_, rfl, fun c r _ _ => Framebuffer.cell_blank c r, rfl, rfl, rfl, fun _ => rfl⟩

/-! ## A draw that fits (45_display.md R182, R185) -/

/-- The cells of the draw loop are the covered ones. -/
theorem State.mem_drawCells_iff_covered (s : State) (x y : RegIx) (n c r : Nat) :
    (c, r) ∈ s.drawCells x y n ↔ s.covered x y n c r := by
  simp [State.mem_drawCells, State.covered, State.spriteBit]

section

variable {s t : State} {x y : RegIx} {n : Nat}

theorem State.drawFits.grid_of_covered (h : s.drawFits x y n) {c r : Nat} (hc : s.covered x y n c r) :
    c < 64 ∧ r < 32 := by
  obtain ⟨j, k, hj, hk, hbit, rfl, rfl⟩ := hc
  exact h.2 j k hj hk hbit

theorem State.drawFits.grid_of_mem (h : s.drawFits x y n) : ∀ p ∈ s.drawCells x y n, p.1 < 64 ∧ p.2 < 32 :=
  fun p hp => h.grid_of_covered ((s.mem_drawCells_iff_covered x y n p.1 p.2).1 hp)

theorem State.drawFault_of_fits (h : s.drawFits x y n) : s.drawFault x y n = none :=
  (s.drawFault_eq_none x y n).2 ⟨(s.loadFault_eq_none n).2 h.1, h.grid_of_mem⟩

/-- The draw loop of a sprite that fits: its cells are distinct and on the grid, so each covered one is inverted once,
and the collision is whether one of them was 1 (45_display.md R185). -/
theorem State.drawFits.draw_spec (h : s.drawFits x y n) :
    (∀ c r, (s.fb.draw (s.drawCells x y n)).1.cell c r =
      (s.fb.cell c r ^^ decide ((c, r) ∈ s.drawCells x y n))) ∧
    ((s.fb.draw (s.drawCells x y n)).2 = true ↔ ∃ c r, s.covered x y n c r ∧ s.fb.cell c r = true) := by
  obtain ⟨hcell, hcol⟩ := s.fb.draw_spec (s.drawCells x y n) (spriteCells_nodup _ _ _) h.grid_of_mem
  refine ⟨hcell, ?_⟩
  rw [hcol]
  simp [State.mem_drawCells_iff_covered]

/-- A draw reads `I`, memory and its two registers: states that agree on those cover the same cells. -/
theorem State.covered_congr (hi : t.i = s.i) (hmem : SameMemory s t) (hx : t.readV x = s.readV x)
    (hy : t.readV y = s.readV y) (c r : Nat) : t.covered x y n c r ↔ s.covered x y n c r := by
  simp only [State.covered, State.spriteBit, hi, hx, hy, hmem _]

theorem State.drawFits_congr (hi : t.i = s.i) (hmem : SameMemory s t) (hx : t.readV x = s.readV x)
    (hy : t.readV y = s.readV y) : t.drawFits x y n ↔ s.drawFits x y n := by
  simp only [State.drawFits, State.spriteBit, hi, hx, hy, hmem _]

end

theorem exec_drw_of_fits {x y : RegIx} {n : Fin 16} {s : State} (h : s.drawFits x y n.val) :
    exec (.drw x y n) s = .next (s.drawn (s.drawCells x y n.val)).advance := by
  rw [exec, execDrw, State.drawFault_of_fits h, State.unlessFault_none]

@[simp] theorem State.readV_drawn_vf (s : State) (ps : List (Nat × Nat)) :
    (s.drawn ps).readV vf = flagByte (s.fb.draw ps).2 := by
  simp [State.drawn]

/-- Settles O55: the draw loop in closed form, and VF as its collision. -/
theorem drawInvertsExactlyTheSprite : Obligations.DrawInvertsExactlyTheSprite := by
  intro x y n s h
  obtain ⟨hcell, hcol⟩ := h.draw_spec
  refine ⟨_, exec_drw_of_fits h, fun c r _ _ hc => (hcell c r).trans ?_, fun c r _ _ hc => (hcell c r).trans ?_,
    fun hhit => ?_, fun hmiss => ?_, fun z hz => ?_, rfl, fun _ => rfl⟩
  · simp [State.mem_drawCells_iff_covered, hc]
  · simp [State.mem_drawCells_iff_covered, hc]
  · simp [hcol.2 hhit, flagByte]
  · have hno : (s.fb.draw (s.drawCells x y n.val)).2 = false := by
      rw [← Bool.not_eq_true, hcol]
      rintro ⟨c, r, hc, hset⟩
      simp [hmiss c r hc] at hset
    simp [hno, flagByte]
  · simp [State.drawn, hz]

/-- Settles O57: the second draw covers the same cells, so it inverts each of them again, and every one it finds over a
blank framebuffer is 1. -/
theorem drawingTwiceRestoresTheFramebuffer : Obligations.DrawingTwiceRestoresTheFramebuffer := by
  intro x y n s t h hx hy ht
  obtain ⟨t', ht', hin, hout, -, -, hregs, hframe, hmem⟩ := drawInvertsExactlyTheSprite x y n s h
  obtain rfl : t' = t := Host.Outcome.next.inj (ht'.symm.trans ht)
  have hi : t'.i = s.i := by rw [hframe]
  have hcov := fun c r => State.covered_congr (n := n.val) hi hmem (hregs x hx) (hregs y hy) c r
  obtain ⟨u, hu, hin', hout', hhit, -⟩ := drawInvertsExactlyTheSprite x y n t'
    ((State.drawFits_congr hi hmem (hregs x hx) (hregs y hy)).2 h)
  refine ⟨u, hu, fun c r hc hr => ?_, fun hblank ⟨c, r, hcr⟩ => hhit ⟨c, r, (hcov c r).2 hcr, ?_⟩⟩
  · by_cases hcr : s.covered x y n.val c r
    · rw [hin' c r hc hr ((hcov c r).2 hcr), hin c r hc hr hcr, Bool.not_not]
    · rw [hout' c r hc hr fun hc' => hcr ((hcov c r).1 hc'), hout c r hc hr hcr]
  · obtain ⟨hc, hr⟩ := h.grid_of_covered hcr
    rw [hin c r hc hr hcr, hblank, Bool.not_false]

/-! ## A draw that does not fit (45_display.md R184, 60_exceptions.md R224) -/

theorem exec_drw_of_fault {x y : RegIx} {n : Fin 16} {s : State} {f : FatalError}
    (h : s.drawFault x y n.val = some f) : exec (.drw x y n) s = .next (s.raise f) := by
  rw [exec, execDrw, h, State.unlessFault_some]

/-- Of a list in the strict order `R`, the element whose predecessors all pass the check decides. -/
theorem firstFault_of_pairwise {α : Type} {R : α → α → Prop} {check : α → Option FatalError} {as : List α} {a : α}
    {f : FatalError} (hR : as.Pairwise R) (ha : a ∈ as) (hbefore : ∀ b ∈ as, R b a → check b = none)
    (hat : check a = some f) : firstFault check as = some f := by
  induction as with
  | nil => simp at ha
  | cons b as ih =>
    obtain ⟨hb, hR⟩ := List.pairwise_cons.1 hR
    rcases List.mem_cons.1 ha with rfl | ha
    · rw [firstFault, List.findSome?_cons, hat]
    · have hnone : check b = none := hbefore b List.mem_cons_self (hb a ha)
      rw [firstFault, List.findSome?_cons, hnone]
      exact ih hR ha fun c hc => hbefore c (List.mem_cons_of_mem b hc)

/-- The cell `p` comes before `q` in row-major order, both as (column, row) (60_exceptions.md R224). -/
def RowMajorBefore (p q : Nat × Nat) : Prop := p.2 < q.2 ∨ (p.2 = q.2 ∧ p.1 < q.1)

theorem rowCells_rowMajor (cx r : Nat) (row : Byte) : (rowCells cx r row).Pairwise RowMajorBefore :=
  (List.pairwise_lt_range.filter _).map _ fun _ _ h => .inr ⟨rfl, Nat.add_lt_add_left h cx⟩

/-- The draw loop goes through the cells in row-major order (45_display.md R182). -/
theorem spriteCells_rowMajor (cx cy : Nat) (rows : List Byte) :
    (spriteCells cx cy rows).Pairwise RowMajorBefore := by
  induction rows generalizing cy with
  | nil => exact .nil
  | cons row rows ih =>
    refine List.pairwise_append.2 ⟨rowCells_rowMajor cx cy row, ih (cy + 1), fun p hp q hq => .inl ?_⟩
    obtain ⟨c, -, -, rfl⟩ := (mem_rowCells _ _ _ _).1 hp
    obtain ⟨j, d, -, -, -, rfl⟩ := (mem_spriteCells _ _ _ _).1 hq
    exact Nat.lt_of_lt_of_le (Nat.lt_succ_self cy) (Nat.le_add_right (cy + 1) j)

/-- The two 9-bit halves of a PIXEL value as one number (45_display.md R184). -/
theorem pixelValue_eq_ofNat (c : Nat) {r : Nat} (hr : r < 512) : pixelValue c r = BitVec.ofNat 18 (512 * c + r) := by
  apply BitVec.eq_of_toNat_eq
  rw [pixelValue, toNat_append_eq_add]
  simp only [BitVec.toNat_ofNat]
  omega

theorem pixelFault_of_outside {c r : Nat} (h : 64 ≤ c ∨ 32 ≤ r) :
    pixelFault (c, r) = some (.outOfBounds .pixel (pixelValue c r)) :=
  if_pos h

/-- Settles O56: the check of the sprite bytes comes first, and that of the cells follows their row-major order. -/
theorem drawTakesItsFirstFault : Obligations.DrawTakesItsFirstFault := by
  refine fun x y n s => ⟨fun k hk hbefore hat => exec_drw_of_fault ?_,
    fun hload j c hj hc hbit hout hbefore => exec_drw_of_fault ?_⟩
  · have hfault : s.loadFault n.val = some (.outOfBounds .memRead (BitVec.ofNat 18 (s.i.toNat + k))) :=
      firstFault_effectiveAddresses hk (fun j hj => (readFault_eq_none _).2 (hbefore j hj))
        (readFault_of_outside hat)
    rw [State.drawFault, hfault, Option.some_or]
  · have hrow : (s.readV y).toNat + j < 512 := by omega
    rw [State.drawFault, (s.loadFault_eq_none n.val).2 (.inr hload), Option.none_or,
      ← pixelValue_eq_ofNat _ hrow]
    refine firstFault_of_pairwise (spriteCells_rowMajor _ _ _)
      ((s.mem_drawCells_iff_covered x y n.val _ _).2 ⟨j, c, hj, hc, hbit, rfl, rfl⟩) ?_ (pixelFault_of_outside hout)
    intro q hq hqp
    obtain ⟨j', c', -, hc', hbit', rfl⟩ := (s.mem_drawCells x y n.val q).1 hq
    have horder : j' < j ∨ (j' = j ∧ c' < c) := by
      simp only [RowMajorBefore] at hqp
      omega
    exact (pixelFault_eq_none _).2 (hbefore j' c' hc' horder hbit')

end Sys2Proof.Machine
end

section
/-! Key query and key wait (46_keys.md): the skip and the key sample in arithmetic, the check of the key index that SKP
and SKNP share, and the latch Fx0A sets. -/

namespace Sys2Proof.Machine

/-! ## The key wait (46_keys.md R193) -/

/-- Settles O51: the writes are the latch and the PC advance. -/
theorem keyWaitSetsTheLatch : Obligations.KeyWaitSetsTheLatch := fun x s =>
  ⟨(s.awaitKey x).advance, rfl, rfl, rfl, rfl, rfl, fun _ => rfl⟩

/-! ## The skip and the key sample (47_skip.md R200, 46_keys.md R190) -/

/-- A conditional skip with the PC advance adds 4 to `PC` when the condition holds and 2 when it does not. -/
theorem State.skipWhen_advance (s : State) (c : Bool) :
    (s.skipWhen c).advance = { s with pc := if c then s.pc + 4 else s.pc + 2 } := by
  cases c with
  | false => rfl
  | true => simp [State.skipWhen, State.advance, BitVec.add_assoc]

theorem State.keyPressed_iff (s : State) (k : Byte) :
    s.keyPressed k = true ↔ s.ports.keyValid = true ∧ s.ports.keyCode.toNat = k.toNat := by
  cases h : s.ports.keyValid <;> simp [State.keyPressed, State.key, h]

/-! ## The check of the key index (46_keys.md R190) -/

theorem keyFault_of_outside {k : Byte} (h : 15 < k.toNat) :
    keyFault k = some (.outOfBounds .keyIndex (k.setWidth 18)) :=
  if_pos h

section

variable {i : Instr} {s t : State} {k : Byte}

/-- The apply phase of an instruction that checks the key index `k` and then leaves `t`. -/
theorem exec_of_keyFault_none (hi : exec i s = .next (s.unlessFault (keyFault k) t)) (hk : k.toNat ≤ 15) :
    exec i s = .next t := by
  rw [hi, (keyFault_eq_none k).2 hk, State.unlessFault_none]

/-- A key index above 15 halts the core before any write (decision D16). -/
theorem exec_of_keyFault_some (hi : exec i s = .next (s.unlessFault (keyFault k) t)) (hk : 15 < k.toNat) :
    exec i s = .next (s.raise (.outOfBounds .keyIndex (k.setWidth 18))) := by
  rw [hi, keyFault_of_outside hk, State.unlessFault_some]

end

/-! ## SKP and SKNP (46_keys.md R191, R192) -/

theorem exec_skp_of_key {x : RegIx} {s : State} (hk : (s.readV x).toNat ≤ 15) :
    exec (.skp x) s = .next { s with pc := if s.keyPressed (s.readV x) then s.pc + 4 else s.pc + 2 } := by
  rw [exec_of_keyFault_none rfl hk, State.skipWhen_advance]

theorem exec_sknp_of_key {x : RegIx} {s : State} (hk : (s.readV x).toNat ≤ 15) :
    exec (.sknp x) s = .next { s with pc := if s.keyPressed (s.readV x) then s.pc + 2 else s.pc + 4 } := by
  rw [exec_of_keyFault_none rfl hk, State.skipWhen_advance]
  cases s.keyPressed (s.readV x) <;> rfl

/-- Settles O52: the check of the index decides between the skip, which follows the sample, and KEY_INDEX. -/
theorem keySkipsFollowTheSample : Obligations.KeySkipsFollowTheSample := by
  refine fun x s => ⟨fun hk => ⟨?_, ?_⟩, fun hk => ⟨exec_of_keyFault_some rfl hk, exec_of_keyFault_some rfl hk⟩⟩
  · simp only [exec_skp_of_key hk, State.keyPressed_iff]
  · simp only [exec_sknp_of_key hk, State.keyPressed_iff]

end Sys2Proof.Machine
end

section
/-! The compare skips (47_skip.md R200–R204): a skip on a comparison in arithmetic, once where the comparison holds and
once where it fails; SE and SNE are one of the two each. -/

namespace Sys2Proof.Machine

section

variable (s : State) (p : Prop) [Decidable p]

/-- SE: the skip is taken where the comparison holds. -/
theorem State.skipWhen_decide_advance :
    (s.skipWhen (decide p)).advance = { s with pc := if p then s.pc + 4 else s.pc + 2 } := by
  rw [State.skipWhen_advance]
  simp only [decide_eq_true_eq]

/-- SNE: the skip is taken where the comparison fails. -/
theorem State.skipWhen_decide_not_advance :
    (s.skipWhen (decide ¬p)).advance = { s with pc := if p then s.pc + 2 else s.pc + 4 } := by
  rw [State.skipWhen_decide_advance, ite_not]

end

/-- Settles O53: each skip is the skip on its comparison of `V[x]` with the byte or with `V[y]`. -/
theorem compareSkipsAdvanceByFourOrTwo : Obligations.CompareSkipsAdvanceByFourOrTwo := fun x y kk s =>
  ⟨congrArg Host.Outcome.next (s.skipWhen_decide_advance (s.readV x = kk)),
    congrArg Host.Outcome.next (s.skipWhen_decide_not_advance (s.readV x = kk)),
    congrArg Host.Outcome.next (s.skipWhen_decide_advance (s.readV x = s.readV y)),
    congrArg Host.Outcome.next (s.skipWhen_decide_not_advance (s.readV x = s.readV y))⟩

end Sys2Proof.Machine
end

section
/-! The fatal errors of the apply phase (60_exceptions.md R223, R225): an instruction halts the core only by the check
it makes first, and each check has its own errors. -/

namespace Sys2Proof.Machine

/-! ## What a fatal error writes (60_exceptions.md R225) -/

/-- An apply phase that halts the core has taken a fatal error and done nothing else: no other effect writes a
halted mode. -/
theorem Effect.eq_raise_of_halted {i : Instr} {s t : State} {f : FatalError} (h : Effect i s t)
    (hm : s.mode = .fetching) (hf : t.mode = .halted f) : t = s.raise f := by
  cases h with
  | raise g =>
    obtain rfl := Mode.halted.inj hf
    rfl
  | regs | skip | jump | call | ret | writeI | writeDt | writeSt | awaitKey | store | clear | draw => simp [hm] at hf

/-- Settles O18: a fatal error is the only effect that halts. -/
theorem fatalErrorWritesNothingElse : Obligations.FatalErrorWritesNothingElse :=
  fun _ _ _ _ hm h hf => (effect_of_exec h).eq_raise_of_halted hm hf

/-! ## The errors of each check (60_exceptions.md R223) -/

section

variable {s : State} {n : Nat} {f : FatalError}

theorem exists_fault_of_firstFault {α : Type} {check : α → Option FatalError} {as : List α}
    (h : firstFault check as = some f) : ∃ a ∈ as, check a = some f :=
  List.exists_of_findSome?_eq_some h

theorem outOfBounds_of_callFault (h : s.callFault = some f) : ∃ v, f = .outOfBounds .stackOverflow v := by
  obtain ⟨-, ⟨⟩⟩ := Option.ite_none_right_eq_some.1 h
  exact ⟨_, rfl⟩

theorem outOfBounds_of_keyFault {k : Byte} (h : keyFault k = some f) : ∃ v, f = .outOfBounds .keyIndex v := by
  obtain ⟨-, ⟨⟩⟩ := Option.ite_none_right_eq_some.1 h
  exact ⟨_, rfl⟩

theorem outOfBounds_of_loadFault (h : s.loadFault n = some f) : ∃ v, f = .outOfBounds .memRead v := by
  obtain ⟨a, -, ha⟩ := exists_fault_of_firstFault h
  obtain ⟨-, ⟨⟩⟩ := Option.ite_none_right_eq_some.1 ha
  exact ⟨_, rfl⟩

theorem outOfBounds_of_storeFault (h : s.storeFault n = some f) :
    ∃ r v, f = .outOfBounds r v ∧ (r = .memWrite ∨ r = .fontWrite) := by
  obtain ⟨a, -, ha⟩ := exists_fault_of_firstFault h
  unfold writeFault at ha
  split at ha
  · exact ⟨_, _, (Option.some.inj ha).symm, .inl rfl⟩
  · obtain ⟨-, ⟨⟩⟩ := Option.ite_none_right_eq_some.1 ha
    exact ⟨_, _, rfl, .inr rfl⟩

theorem outOfBounds_of_drawFault {x y : RegIx} (h : s.drawFault x y n = some f) :
    ∃ r v, f = .outOfBounds r v ∧ (r = .memRead ∨ r = .pixel) := by
  rcases Option.or_eq_some_iff.1 h with hload | ⟨-, hpixel⟩
  · obtain ⟨v, rfl⟩ := outOfBounds_of_loadFault hload
    exact ⟨_, v, rfl, .inl rfl⟩
  · obtain ⟨p, -, hp⟩ := exists_fault_of_firstFault hpixel
    obtain ⟨-, ⟨⟩⟩ := Option.ite_none_right_eq_some.1 hp
    exact ⟨_, _, rfl, .inr rfl⟩

end

/-! ## Which instruction makes which check -/

@[simp] theorem State.writeLogic_mode (s : State) (x : RegIx) (r : Byte) : (s.writeLogic x r).mode = s.mode := by
  rw [State.writeLogic_eq]

@[simp] theorem State.writeResultAndFlag_mode (s : State) (x : RegIx) (r f : Byte) :
    (s.writeResultAndFlag x r f).mode = s.mode := by
  rw [State.writeResultAndFlag_eq]

@[simp] theorem State.loadRegs_mode (s : State) (x : RegIx) : (s.loadRegs x).mode = s.mode := by
  rw [State.loadRegs_eq]

/-- An instruction that checks first halts the core with the error of its check. -/
theorem fault_of_exec_halted {i : Instr} {s t u : State} {o : Option FatalError} {f : FatalError}
    (h : exec i s = .next t) (hf : t.mode = .halted f) (hi : exec i s = .next (s.unlessFault o u))
    (hu : u.mode = .fetching) : o = some f := by
  obtain rfl := Host.Outcome.next.inj (hi.symm.trans h)
  rcases s.unlessFault_cases u o with ⟨g, rfl, hg⟩ | ⟨-, hg⟩
  · rw [hg] at hf
    rw [Mode.halted.inj hf]
  · simp [hg, hu] at hf

/-- Settles O17, instruction by instruction: those that check first raise an error of their check, RET raises the
underflow of an empty stack, and the others keep a mode that is not halted. -/
theorem instructionsRaiseOnlyListedErrors : Obligations.InstructionsRaiseOnlyListedErrors := by
  intro i s t f hm h hf
  cases i with
  | call =>
    obtain ⟨v, rfl⟩ := outOfBounds_of_callFault (fault_of_exec_halted h hf rfl (by simp [hm]))
    rfl
  | skp | sknp =>
    obtain ⟨v, rfl⟩ := outOfBounds_of_keyFault (fault_of_exec_halted h hf rfl (by simp [hm]))
    rfl
  | ldVxMem =>
    obtain ⟨v, rfl⟩ := outOfBounds_of_loadFault (fault_of_exec_halted h hf rfl (by simp [hm]))
    rfl
  | ldBVx | ldMemVx =>
    obtain ⟨r, v, rfl, hr⟩ := outOfBounds_of_storeFault (fault_of_exec_halted h hf rfl (by simp [hm]))
    exact hr
  | drw =>
    obtain ⟨r, v, rfl, hr⟩ := outOfBounds_of_drawFault (fault_of_exec_halted h hf rfl (by simp [hm]))
    exact hr
  | ret =>
    rcases execRet_cases s with ⟨-, hs⟩ | ⟨-, hk, hs⟩ | ⟨-, hs⟩
    · obtain rfl := Host.Outcome.next.inj (hs.symm.trans h)
      obtain rfl := Mode.halted.inj hf
      rfl
    · obtain rfl := Host.Outcome.next.inj (hs.symm.trans h)
      simp [hm] at hf
    · exact nomatch hs.symm.trans h
  | cls | ldVxDt | ldVxK | ldDtVx | ldStVx | addIVx | ldFVx | seReg | ldReg | orReg | andReg | xorReg | addReg | sub
  | shr | subn | shl | sneReg | jp | seImm | sneImm | ldImm | addImm | ldI | jpV0 | rnd =>
    obtain rfl := Host.Outcome.next.inj h
    simp [hm] at hf

end Sys2Proof.Machine
end

section
/-! Construction and reset (70_reset_and_hazards.md R240–R242): the machine an image that fits gives, and `rst` as
construction beside the environment's samples. -/

namespace Sys2Proof.Machine

/-! ## Construction (R241, R242) -/

theorem construct_tooLarge (cfg : Config) {image : List Byte} (h : 3584 < image.length) :
    construct cfg image = .error (.tooLarge image.length) :=
  if_pos h

theorem of_construct_ok {cfg : Config} {image : List Byte} {t : State} (h : construct cfg image = .ok t) :
    image.length ≤ 3584 ∧ t = (State.resetWith cfg).pokeAll 512 image := by
  by_cases hlen : image.length ≤ 3584
  · exact ⟨hlen, Except.ok.inj (h.symm.trans (construct_ok cfg image hlen))⟩
  · exact nomatch h.symm.trans (construct_tooLarge cfg (Nat.not_le.1 hlen))

/-! ## The invariant of a constructed machine -/

/-- Bytes stored inside memory and above the font keep the invariant. -/
theorem State.Inv.pokeAll_above_font {s : State} (hs : s.Inv) {a : Nat} {bs : List Byte} (ha : 80 ≤ a)
    (hend : a + bs.length ≤ 4096) : (s.pokeAll a bs).Inv where
  memWf := by
    rw [State.pokeAll_cfg]
    exact s.wf_pokeAll a bs hend hs.memWf
  spLe := by simpa using hs.spLe
  pcLe := by simpa using hs.pcLe
  slotsLe := by simpa using hs.slotsLe
  font := by
    rw [State.pokeAll_cfg]
    intro hp c hc
    rw [State.peek_pokeAll, dif_neg (by omega), State.pokeAll_cfg]
    exact hs.font hp c hc

/-- Settles O23: the image stands at 512 on, above the font, in the reset state. -/
theorem invariantHoldsAfterConstruction : Obligations.InvariantHoldsAfterConstruction := by
  intro cfg image t h
  obtain ⟨hlen, rfl⟩ := of_construct_ok h
  exact (resetWith_inv cfg).pokeAll_above_font (by decide) (by omega)

/-! ## The image in memory (R241) -/

section

variable (cfg : Config) (image : List Byte)

theorem peek_image {k : Nat} (h : k < image.length) :
    ((State.resetWith cfg).pokeAll 512 image).peek (512 + k) = image[k] := by
  rw [State.peek_pokeAll, dif_pos (by omega)]
  simp

theorem peek_outside_image {a : Nat} (h : a < 512 ∨ 512 + image.length ≤ a) :
    ((State.resetWith cfg).pokeAll 512 image).peek a = resetByte cfg a := by
  rw [State.peek_pokeAll, dif_neg (by omega), State.resetWith_peek]

end

/-- Settles O27: every byte is one of the image or the byte reset leaves, and only memory differs from reset. -/
theorem imageIsCopiedToTheEntryPoint : Obligations.ImageIsCopiedToTheEntryPoint := by
  intro cfg image hlen
  refine ⟨_, construct_ok cfg image hlen, fun k => peek_image cfg image, fun a => ?_, fun a ha hout => ?_,
    fun h => ?_, State.pokeAll_eq _ _ _⟩
  · rw [peek_outside_image cfg image (by omega), resetByte_font]
  · rw [peek_outside_image cfg image hout, resetByte_above_font cfg ha]
  · have h0 := peek_image cfg image (Nat.zero_lt_of_lt h)
    have h1 := peek_image cfg image h
    rw [State.fetch16_ok _ _ (by decide), h0, h1, wordOfBytes]

/-! ## Reset (R240) -/

theorem State.rst_of_construct_ok {s u : State} {image : List Byte} (h : construct s.cfg image = .ok u) :
    s.rst image = .ok { u with pending := s.pending, draws := s.draws } := by
  rw [State.rst, h]

theorem State.rst_tooLarge (s : State) {image : List Byte} (h : 3584 < image.length) :
    s.rst image = .error (.tooLarge image.length) := by
  rw [State.rst, construct_tooLarge s.cfg h]

/-- Settles O28: an image that fits is constructed, and the image changes neither `mode` nor `PC` of the reset
state. -/
theorem resetKeepsNothingOfTheCore : Obligations.ResetKeepsNothingOfTheCore := by
  refine fun s image => ⟨s.rst_tooLarge, fun hlen => ?_⟩
  have hu := construct_ok s.cfg image hlen
  exact ⟨_, _, hu, State.rst_of_construct_ok hu, rfl, State.pokeAll_mode _ _ _, State.pokeAll_pc _ _ _⟩

end Sys2Proof.Machine
end
